-- ==== Sys2Proof/Config.lean ====
section
/-! DEFINITION. What an implementation fixes (the default width, the cardinalities, the constants the
host can read back) and the free values of the model: opaque constants with no body, so that nothing can
be proved of what they are. -/

namespace Sys2Proof.Config

/-- The default of the width `W` of every sample, coefficient and history value (00_scope.md R7). `W` is an
open parameter (`W >= 16`) and every definition of the model takes it as an argument `w`; this is the value
a type such as `Machine.State` has where the argument is left out (log entry 1). -/
abbrev W : Nat := 32

/-- Number of channels (00_scope.md R6). -/
abbrev NCH : Nat := 8

/-- Number of stages per channel (00_scope.md R6). -/
abbrev NST : Nat := 8

/-- Samples per channel per frame (00_scope.md R6). -/
abbrev FLEN : Nat := 32

/-- The constant a read of `CONFIG` returns: `NCH` in bits 3:0, `NST` in 7:4, `FLEN` in 13:8
(10_state.md R33). -/
def configWord (w : Nat) : BitVec w := BitVec.ofNat w (NCH + NST * 16 + FLEN * 256)

/-- The constant a read of `WIDTH` returns (10_state.md R34). -/
def widthWord (w : Nat) : BitVec w := BitVec.ofNat w w

/-- Free value: what coefficient register `(c, s, k)` holds after the reset number `epoch`
(10_state.md R36, R37). DESIGN CHOICE (log entry 2). -/
opaque coefAtReset (w epoch : Nat) (c s : Fin 8) (k : Fin 5) : BitVec w

/-- Free value: what `INBUF[c][n]` holds after the reset number `epoch` (10_state.md R36, R37).
DESIGN CHOICE (log entry 2). -/
opaque inbufAtReset (w epoch : Nat) (c : Fin 8) (n : Fin 32) : BitVec w

/-- Free value: what `OUTBUF[c][n]` holds after the reset number `epoch` (10_state.md R36, R37).
DESIGN CHOICE (log entry 2). -/
opaque outbufAtReset (w epoch : Nat) (c : Fin 8) (n : Fin 32) : BitVec w

/-- Free value: what stands in `x[c]` after the reset number `epoch`, where the spec gives it no value
(10_state.md R28, R36). DESIGN CHOICE (log entry 3). -/
opaque xAtReset (w epoch : Nat) (c : Fin 8) : BitVec w

/-- Free value: what stands in `pos[c]` after the reset number `epoch`, where the spec gives it no
value (10_state.md R29, R36). DESIGN CHOICE (log entry 3). -/
opaque posAtReset (epoch : Nat) (c : Fin 8) : Fin 33 × Fin 8

/-- Free value: the lane the engine offers the next step to, at its own choice number `turn`
(42_frame.md R156: "the choice is left open"). DESIGN CHOICE (log entry 5). -/
opaque lanePick (turn : Nat) : Fin 8

end Sys2Proof.Config
end

