-- ==== Sys2Proof/Word.lean ====
section
/-! DEFINITION. The word type: every storage element and every transaction's data is one whole word
of `W` bits (20_memory.md R60, R66). -/

namespace Sys2Proof

/-- One word of `w` bits (00_scope.md R9); `Word` alone is a word of the default width. -/
abbrev Word (w : Nat := Config.W) := BitVec w

/-- A transaction's canonical header `{rw, 000, addr}` (30_encoding.md R91). -/
abbrev Header := BitVec 16

/-- A word address of the host register space (20_memory.md R60). -/
abbrev Addr := BitVec 12

end Sys2Proof
end

