-- ==== Sys2Proof/Syntax.lean ====
section
/-! DEFINITION. The transaction as it is issued (30_encoding.md R90, R91) and the sixteen encoded
operations it stands for (30_encoding.md R95): one constructor per row of spec/opcode_table.json. Both take
the width `w` as an argument (00_scope.md R7); left out, it is the default. -/

namespace Sys2Proof

/-- A host transaction: the 16-bit canonical header (30_encoding.md R91) and the data word, which the
host supplies for a WR and which is ignored on the way in for a RD (R90). -/
structure Transaction (w : Nat := Config.W) where
  /-- `{rw, 000, addr}` -/
  header : Header
  /-- the data word of a WR -/
  data : Word w
  deriving DecidableEq, Repr

/-- The encoded operations. `c`, `s` and `n` are the channel, stage and sample index, `k` the
coefficient position as its three bits give it (positions 5 to 7 match the row and are reserved,
30_encoding.md R95, R96, log entry 8), `j` the history position, `v` the data word. -/
inductive Instr (w : Nat := Config.W) where
  /-- write one coefficient register, 43_host_access.md R171 -/
  | wrcoef (c s k : Fin 8) (v : Word w)
  /-- read one coefficient register, R172 -/
  | rdcoef (c s k : Fin 8)
  /-- read one history register, R173 -/
  | rdhist (c s : Fin 8) (j : Fin 2)
  /-- write one input sample, R174 -/
  | wrin (c : Fin 8) (n : Fin 32) (v : Word w)
  /-- read one input sample, R175 -/
  | rdin (c : Fin 8) (n : Fin 32)
  /-- read one output sample, R176 -/
  | rdout (c : Fin 8) (n : Fin 32)
  /-- read `CMD`, R177 -/
  | rdcmd
  /-- read `STATUS`, R178 -/
  | rdstat
  /-- read `CONFIG`, R179 -/
  | rdcfg
  /-- read `WIDTH`, R180 -/
  | rdwidth
  /-- command: nothing, 44_commands.md R191 -/
  | nop
  /-- command: begin one frame run, R192 -/
  | start
  /-- command: zero one stage's history, R194 -/
  | inits (c s : Fin 8)
  /-- command: zero one channel's histories, R195 -/
  | initc (c : Fin 8)
  /-- command: zero all histories, R196 -/
  | inita
  /-- command: clear the recorded error, R197 -/
  | clrerr
  deriving DecidableEq, Repr

end Sys2Proof
end

