-- ==== Sys2Proof/WellFormed.lean ====
section
/-! DEFINITION. Which instructions are well formed: those whose operands satisfy the constraint
column of 30_encoding.md R95. The types of the other operands already keep them in range (R94). -/

namespace Sys2Proof

/-- The operands lie where the opcode table's constraint puts them: a coefficient position is 0 to 4
(30_encoding.md R94, R95). -/
def Instr.wf {w : Nat} : Instr w → Bool
  | .wrcoef _ _ k _ => decide (k.val ≤ 4)
  | .rdcoef _ _ k => decide (k.val ≤ 4)
  | .rdhist _ _ _ => true
  | .wrin _ _ _ => true
  | .rdin _ _ => true
  | .rdout _ _ => true
  | .rdcmd => true
  | .rdstat => true
  | .rdcfg => true
  | .rdwidth => true
  | .nop => true
  | .start => true
  | .inits _ _ => true
  | .initc _ => true
  | .inita => true
  | .clrerr => true

/-- `wf` as a proposition. -/
abbrev WellFormed {w : Nat} (i : Instr w) : Prop := i.wf = true

end Sys2Proof
end

