-- ==== Sys2Proof/Decode.lean ====
section
/-! DEFINITION. The decoder, written from the opcode map (30_encoding.md R95, R96), and after it the
encoder, written from the transactions of 30_encoding.md R98 and the addresses of 20_memory.md R62 to R65.
The decoder is total: a transaction that selects no row is rejected by name. -/

namespace Sys2Proof

variable {w : Nat}

/-- `v[hi:lo]`: the bits `hi` down to `lo`, read as an unsigned integer (00_scope.md R9). -/
def slice (v : BitVec w) (hi lo : Nat) : Nat := v.toNat / 2 ^ lo % 2 ^ (hi - lo + 1)

/-- The index field of three bits whose lowest bit is `lo` (30_encoding.md R94: read directly). -/
def field3 (v : BitVec w) (lo : Nat) : Fin 8 := Fin.ofNat 8 (slice v (lo + 2) lo)

/-- The sample index: the five bits `[4:0]` (30_encoding.md R92, format A-BUF). -/
def field5 (v : BitVec w) : Fin 32 := Fin.ofNat 32 (slice v 4 0)

/-- The history position: the bit `[0]` (30_encoding.md R92, format A-HIST). -/
def field1 (v : BitVec w) : Fin 2 := Fin.ofNat 2 (slice v 0 0)

/-- Why a transaction selects no row (30_encoding.md R96). -/
inductive Reject where
  /-- header bits `[14:12]` not all 0: "cannot be issued; a decoder reports invalid" -/
  | notATransaction
  /-- a reserved address -/
  | reservedAddress
  /-- a WR to `HIST`, `OUTBUF`, `STATUS`, `CONFIG` or `WIDTH` -/
  | readOnlyLocation
  /-- a WR to `CMD` with a reserved opcode or a bit set that must be 0 -/
  | malformedCommand
  deriving DecidableEq, Repr

/-- One row of the opcode map: the mask and match of the header, for a command row the `dmask` and
`dmatch` of the data word (their low 16 bits, as the map shows them), and how the operands are read. -/
structure OpRow (w : Nat := Config.W) where
  mnemonic : String
  mask : Header
  pat : Header
  command : Option (BitVec 16 × BitVec 16)
  read : Transaction w → Instr w

/-- The data word matches a command row: `(data AND dmask) = dmatch` on its low 16 bits, and "every bit
above 15 is also in the mask and must be 0" (30_encoding.md R95). -/
def commandMatches (d : Word w) (dmask dmatch : BitVec 16) : Bool :=
  d.toNat / 2 ^ 16 == 0 && BitVec.ofNat 16 d.toNat &&& dmask == dmatch

/-- The row selects the transaction: `(h AND mask) = match`, and for a command row also the data word
matches (30_encoding.md R95). -/
def OpRow.selects (r : OpRow w) (t : Transaction w) : Bool :=
  t.header &&& r.mask == r.pat &&
    match r.command with
    | none => true
    | some (dmask, dmatch) => commandMatches t.data dmask dmatch

/-- The ten access rows of 30_encoding.md R95, with the field places of R92. -/
def accessRows : List (OpRow w) :=
  [ ⟨"WRCOEF", 0xFE00, 0x8000, none,
      fun t => .wrcoef (field3 t.header 6) (field3 t.header 3) (field3 t.header 0) t.data⟩,
    ⟨"RDCOEF", 0xFE00, 0x0000, none,
      fun t => .rdcoef (field3 t.header 6) (field3 t.header 3) (field3 t.header 0)⟩,
    ⟨"RDHIST", 0xFF80, 0x0200, none,
      fun t => .rdhist (field3 t.header 4) (field3 t.header 1) (field1 t.header)⟩,
    ⟨"WRIN", 0xFF00, 0x8300, none, fun t => .wrin (field3 t.header 5) (field5 t.header) t.data⟩,
    ⟨"RDIN", 0xFF00, 0x0300, none, fun t => .rdin (field3 t.header 5) (field5 t.header)⟩,
    ⟨"RDOUT", 0xFF00, 0x0400, none, fun t => .rdout (field3 t.header 5) (field5 t.header)⟩,
    ⟨"RDCMD", 0xFFFF, 0x0500, none, fun _ => .rdcmd⟩,
    ⟨"RDSTAT", 0xFFFF, 0x0501, none, fun _ => .rdstat⟩,
    ⟨"RDCFG", 0xFFFF, 0x0502, none, fun _ => .rdcfg⟩,
    ⟨"RDWIDTH", 0xFFFF, 0x0503, none, fun _ => .rdwidth⟩ ]

/-- The six command rows of 30_encoding.md R95, with the field places of R93. -/
def commandRows : List (OpRow w) :=
  [ ⟨"NOP", 0xFFFF, 0x8500, some (0xFFFF, 0x0000), fun _ => .nop⟩,
    ⟨"START", 0xFFFF, 0x8500, some (0xFFFF, 0x0001), fun _ => .start⟩,
    ⟨"INITS", 0xFFFF, 0x8500, some (0xFC0F, 0x0002),
      fun t => .inits (field3 t.data 7) (field3 t.data 4)⟩,
    ⟨"INITC", 0xFFFF, 0x8500, some (0xFC7F, 0x0003), fun t => .initc (field3 t.data 7)⟩,
    ⟨"INITA", 0xFFFF, 0x8500, some (0xFFFF, 0x0004), fun _ => .inita⟩,
    ⟨"CLRERR", 0xFFFF, 0x8500, some (0xFFFF, 0x0005), fun _ => .clrerr⟩ ]

/-- The opcode map (30_encoding.md R95). -/
def opcodeRows : List (OpRow w) := accessRows ++ commandRows

/-- The direction bit of a transaction: 1 for a WR (30_encoding.md R91). -/
def Transaction.isWrite (t : Transaction w) : Bool := slice t.header 15 15 == 1

/-- The word address of a transaction (30_encoding.md R91). -/
def Transaction.addr (t : Transaction w) : Nat := slice t.header 11 0

/-- The addresses a host may read but never write: `HIST`, `OUTBUF`, `STATUS`, `CONFIG` and `WIDTH`
(20_memory.md R61, 43_host_access.md R181). -/
def readOnlyAddr (a : Nat) : Bool :=
  (0x200 ≤ a && a ≤ 0x27F) || (0x400 ≤ a && a ≤ 0x4FF) || (0x501 ≤ a && a ≤ 0x503)

/-- The class of a transaction that selects no row (30_encoding.md R96). -/
def rejectOf (t : Transaction w) : Reject :=
  if slice t.header 14 12 ≠ 0 then .notATransaction
  else if t.addr = 0x500 then .malformedCommand
  else if t.isWrite && readOnlyAddr t.addr then .readOnlyLocation
  else .reservedAddress

/-- The decoder: the row that selects the transaction, or the name of the class it is rejected in. -/
def decode (t : Transaction w) : Except Reject (Instr w) :=
  match opcodeRows.find? (fun r => r.selects t) with
  | some r => .ok (r.read t)
  | none => .error (rejectOf t)

/-! ### The encoder -/

/-- The address of `COEF[c][s][k]` (20_memory.md R62). -/
def coefAddr (c s k : Nat) : Nat := 0x000 + c * 64 + s * 8 + k

/-- The address of `HIST[c][s][j]` (20_memory.md R63). -/
def histAddr (c s j : Nat) : Nat := 0x200 + c * 16 + s * 2 + j

/-- The address of `INBUF[c][n]` (20_memory.md R64). -/
def inbufAddr (c n : Nat) : Nat := 0x300 + c * 32 + n

/-- The address of `OUTBUF[c][n]` (20_memory.md R64). -/
def outbufAddr (c n : Nat) : Nat := 0x400 + c * 32 + n

/-- The address of `CMD` (20_memory.md R65). -/
def cmdAddr : Nat := 0x500

/-- The address of `STATUS` (20_memory.md R65). -/
def statusAddr : Nat := 0x501

/-- The address of `CONFIG` (20_memory.md R65). -/
def configAddr : Nat := 0x502

/-- The address of `WIDTH` (20_memory.md R65). -/
def widthAddr : Nat := 0x503

/-- `WR addr, data` (30_encoding.md R91, R98). -/
def wr (addr : Nat) (data : Word w) : Transaction w := ⟨BitVec.ofNat 16 (0x8000 + addr), data⟩

/-- `RD addr` (30_encoding.md R91, R98). -/
def rd (addr : Nat) : Transaction w := ⟨BitVec.ofNat 16 addr, 0⟩

/-- A write of the command word `d` to `CMD` (30_encoding.md R93, R98). -/
def command (d : Nat) : Transaction w := wr cmdAddr (BitVec.ofNat w d)

/-- The transaction of an instruction (30_encoding.md R98). -/
def encode : Instr w → Transaction w
  | .wrcoef c s k v => wr (coefAddr c s k) v
  | .rdcoef c s k => rd (coefAddr c s k)
  | .rdhist c s j => rd (histAddr c s j)
  | .wrin c n v => wr (inbufAddr c n) v
  | .rdin c n => rd (inbufAddr c n)
  | .rdout c n => rd (outbufAddr c n)
  | .rdcmd => rd cmdAddr
  | .rdstat => rd statusAddr
  | .rdcfg => rd configAddr
  | .rdwidth => rd widthAddr
  | .nop => command 0
  | .start => command 1
  | .inits c s => command (2 + s * 16 + c * 128)
  | .initc c => command (3 + c * 128)
  | .inita => command 4
  | .clrerr => command 5

/-! ### The opcode table's numbering -/

/-- The transaction (of the default width) whose bits are `w`, bit 0 the least significant of the header and
the data word's bits counted on from bit 16; the bits at `nbits` and above are 0 (log entry 9). -/
def tableTransaction (nbits w : Nat) : Transaction :=
  ⟨BitVec.ofNat 16 (w % 2 ^ nbits), BitVec.ofNat Config.W (w % 2 ^ nbits / 2 ^ 16)⟩

/-- The instruction the decoder reads from a transaction whose bits are `w`, numbered as
spec/opcode_table.json numbers them; none where the decoder rejects it, or where a bit is set above the
data word. -/
def decodeTableWord (nbits w : Nat) : Option Instr :=
  if w % 2 ^ nbits < 2 ^ (16 + Config.W) then
    match decode (tableTransaction nbits w) with
    | .ok i => some i
    | .error _ => none
  else none

end Sys2Proof
end

