-- ==== Sys2Proof/Machine/State.lean ====
section
/-! DEFINITION. The state of the engine (10_state.md R20) as plain data, with the model's own fields for
what stands outside it, and the state after reset (10_state.md R36). The width `w` of the words is an
argument of the types (00_scope.md R7); left out, it is the default. -/

namespace Sys2Proof.Machine

/-- The coefficient set of one stage, in the source's order `[b0, b1, b2, a1, a2]` (10_state.md R21),
for any width `w`. -/
structure CoefSet (w : Nat) where
  b0 : BitVec w
  b1 : BitVec w
  b2 : BitVec w
  a1 : BitVec w
  a2 : BitVec w
  deriving DecidableEq, Repr

/-- The history of one stage, `(s1, s2)` (10_state.md R23). -/
structure History (w : Nat) where
  s1 : BitVec w
  s2 : BitVec w
  deriving DecidableEq, Repr

/-- A lane's position counter: the next BIQUAD evaluation, stage `s` on sample `n`; `n = 32` means that the
lane has finished the frame (10_state.md R29). -/
structure Pos where
  n : Fin 33
  s : Fin 8
  deriving DecidableEq, Repr

/-- One channel and its lane: the channel's slices of `COEF`, `HIST`, `INBUF` and `OUTBUF`, and the lane's
`x[c]` and `pos[c]` (60_exceptions.md R224: "State per lane"). -/
structure Channel (w : Nat) where
  /-- `COEF[c][s]`, R21 -/
  coef : Vector (CoefSet w) 8
  /-- `HIST[c][s]`, R23 -/
  hist : Vector (History w) 8
  /-- `INBUF[c][n]`, R26 -/
  inbuf : Vector (BitVec w) 32
  /-- `OUTBUF[c][n]`, R27 -/
  outbuf : Vector (BitVec w) 32
  /-- `x[c]`, the sample in flight, R28 -/
  x : BitVec w
  /-- `pos[c]`, R29 -/
  pos : Pos
  deriving DecidableEq, Repr

/-- One turn: who acts, and on what. A list of turns is what the outside world does to the engine and
one schedule of its lanes, as plain data (log entry 4). -/
inductive Turn (w : Nat := Config.W) where
  /-- the host issues a transaction (20_memory.md R71) -/
  | host (t : Transaction w)
  /-- lane `c` is offered a step (42_frame.md R155, R156) -/
  | lane (c : Fin 8)
  /-- the completion step is offered (44_commands.md R193) -/
  | complete
  /-- the reset event (70_reset_and_hazards.md R240) -/
  | reset
  deriving DecidableEq, Repr

/-- The whole machine at width `w`. The first four fields are the spec's (10_state.md R20); the other four are the
model's own: the port's answer, what is to happen next, and two counters for free values. -/
structure State (w : Nat := Config.W) where
  /-- the eight channels with their lanes, R20, R224 -/
  chan : Vector (Channel w) 8
  /-- `STATUS.BUSY`, R32 -/
  busy : Bool
  /-- `STATUS.DONE`, R32 -/
  done : Bool
  /-- `STATUS.ERRCODE`, R32 -/
  errcode : BitVec 4
  /-- the word the latest RD returned (43_host_access.md R170); none before the first (log entry 7) -/
  reply : Option (Word w)
  /-- the turns to come, the next one first (log entries 4 and 12) -/
  agenda : List (Turn w)
  /-- how many free choices of a lane have been made (log entry 5) -/
  turn : Nat
  /-- how many reset events there have been since the first (log entry 13) -/
  epoch : Nat
  deriving DecidableEq, Repr

/-- Why the machine would stop with a fault: never. No transaction, no data and no order of events stops
the engine (60_exceptions.md R213: "the engine does not stop"; R217: "no lock-up"); its four errors are
recorded in `STATUS.ERRCODE` by a next state. -/
inductive Fault where
  deriving DecidableEq, Repr

/-- Why a step has no meaning. -/
inductive Refusal where
  /-- Raised by an arm of `exec` for an instruction not modelled yet; no arm does. Safe. -/
  | notModelled (mnemonic : String)
  /-- Raised by a host turn whose header has one of the bits `[14:12]` set: it names no transaction and
  "cannot be issued" (30_encoding.md R96, log entry 10). Safe: the model stops where the hardware is never
  reached. -/
  | notATransaction (header : Header)
  deriving DecidableEq, Repr

/-- A channel right after the reset number `epoch`: history zero (10_state.md R36), every other word a
free value (R37, log entries 2 and 3). -/
def Channel.atReset (w epoch : Nat) (c : Fin 8) : Channel w where
  coef := Vector.ofFn fun s =>
    { b0 := Config.coefAtReset w epoch c s 0
      b1 := Config.coefAtReset w epoch c s 1
      b2 := Config.coefAtReset w epoch c s 2
      a1 := Config.coefAtReset w epoch c s 3
      a2 := Config.coefAtReset w epoch c s 4 }
  hist := Vector.replicate 8 { s1 := 0, s2 := 0 }
  inbuf := Vector.ofFn fun n => Config.inbufAtReset w epoch c n
  outbuf := Vector.ofFn fun n => Config.outbufAtReset w epoch c n
  x := Config.xAtReset w epoch c
  pos := { n := (Config.posAtReset epoch c).1, s := (Config.posAtReset epoch c).2 }

/-- The machine right after reset (10_state.md R36): idle, no frame completed, no error, history zero; no
read answered and no turn listed. -/
def State.resetAt (w : Nat) : State w where
  chan := Vector.ofFn fun c => Channel.atReset w 0 c
  busy := false
  done := false
  errcode := 0
  reply := none
  agenda := []
  turn := 0
  epoch := 0

/-- The machine of the default width right after reset. -/
def State.reset : State := State.resetAt Config.W

end Sys2Proof.Machine
end

