-- ==== Sys2Proof/Machine/Ops.lean ====
section
/-! DEFINITION. The named operations over the storage and the status fields: reading and writing one
register, answering a read, raising an error (the engine's only exception, taken by ONE operation) and
clearing it, and the busy check every access of the storage goes through (43_host_access.md R170). -/

namespace Sys2Proof.Machine

variable {w : Nat}

/-! ### One register of a set -/

/-- The coefficient at position `k` of `[b0, b1, b2, a1, a2]` (10_state.md R21). -/
def CoefSet.get {w : Nat} (q : CoefSet w) (k : Fin 5) : BitVec w :=
  match k with
  | 0 => q.b0
  | 1 => q.b1
  | 2 => q.b2
  | 3 => q.a1
  | 4 => q.a2

/-- The set with position `k` replaced, all `w` bits, unchanged (10_state.md R22). -/
def CoefSet.put {w : Nat} (q : CoefSet w) (k : Fin 5) (v : BitVec w) : CoefSet w :=
  match k with
  | 0 => { q with b0 := v }
  | 1 => { q with b1 := v }
  | 2 => { q with b2 := v }
  | 3 => { q with a1 := v }
  | 4 => { q with a2 := v }

/-- The history value at position `j` of `(s1, s2)` (10_state.md R23). -/
def History.get {w : Nat} (h : History w) (j : Fin 2) : BitVec w :=
  match j with
  | 0 => h.s1
  | 1 => h.s2

/-- The history `(0, 0)` (10_state.md R24). -/
def History.zero (w : Nat) : History w := { s1 := 0, s2 := 0 }

/-- The position of a lane's first evaluation (10_state.md R29). -/
def Pos.first : Pos := { n := 0, s := 0 }

/-- The position of a lane that has finished the frame (10_state.md R29). -/
def Pos.finished : Pos := { n := 32, s := 0 }

/-! ### Reading the state by index (00_scope.md R12) -/

/-- `COEF[c][s][k]` -/
def State.coefAt (σ : State w) (c s : Fin 8) (k : Fin 5) : Word w := (σ.chan[c].coef[s]).get k

/-- `HIST[c][s]`, the pair -/
def State.histPair (σ : State w) (c s : Fin 8) : History w := σ.chan[c].hist[s]

/-- `HIST[c][s][j]` -/
def State.histAt (σ : State w) (c s : Fin 8) (j : Fin 2) : Word w := (σ.histPair c s).get j

/-- `INBUF[c][n]` -/
def State.inbufAt (σ : State w) (c : Fin 8) (n : Fin 32) : Word w := σ.chan[c].inbuf[n]

/-- `OUTBUF[c][n]` -/
def State.outbufAt (σ : State w) (c : Fin 8) (n : Fin 32) : Word w := σ.chan[c].outbuf[n]

/-- `x[c]` -/
def State.xAt (σ : State w) (c : Fin 8) : Word w := σ.chan[c].x

/-- `pos[c]` -/
def State.posAt (σ : State w) (c : Fin 8) : Pos := σ.chan[c].pos

/-! ### Writing the state -/

/-- Channel `c` replaced by `f` of it; every write of a channel's storage goes through here. -/
def State.modChan (σ : State w) (c : Fin 8) (f : Channel w → Channel w) : State w :=
  { σ with chan := σ.chan.set c (f σ.chan[c]) }

/-- `COEF[c][s][k] <- v` -/
def State.setCoef (σ : State w) (c s : Fin 8) (k : Fin 5) (v : Word w) : State w :=
  σ.modChan c fun ch => { ch with coef := ch.coef.set s ((ch.coef[s]).put k v) }

/-- `INBUF[c][n] <- v` -/
def State.setInbuf (σ : State w) (c : Fin 8) (n : Fin 32) (v : Word w) : State w :=
  σ.modChan c fun ch => { ch with inbuf := ch.inbuf.set n v }

/-- `HIST[c][s] <- (0, 0)`, the initialisation of one stage (44_commands.md R194). -/
def State.zeroStage (σ : State w) (c s : Fin 8) : State w :=
  σ.modChan c fun ch => { ch with hist := ch.hist.set s (History.zero w) }

/-- The initialisation of one channel: all its eight stages (44_commands.md R195). -/
def State.zeroChannel (σ : State w) (c : Fin 8) : State w :=
  σ.modChan c fun ch => { ch with hist := Vector.replicate 8 (History.zero w) }

/-- The initialisation of all channels (44_commands.md R196). -/
def State.zeroAll (σ : State w) : State w :=
  { σ with chan := Vector.ofFn fun c =>
      { σ.chan[c] with hist := Vector.replicate 8 (History.zero w) } }

/-- The beginning of a frame run: `DONE <- 0`, `BUSY <- 1`, every `pos[c] <- (0, 0)` (44_commands.md
R192). -/
def State.beginRun (σ : State w) : State w :=
  { σ with
    done := false
    busy := true
    chan := Vector.ofFn fun c => { σ.chan[c] with pos := Pos.first } }

/-- The end of a frame run: `BUSY <- 0`, `DONE <- 1` (44_commands.md R193). -/
def State.endRun (σ : State w) : State w := { σ with busy := false, done := true }

/-- The port returns the word `v` to the host (43_host_access.md R170). -/
def State.answer (σ : State w) (v : Word w) : State w := { σ with reply := some v }

/-! ### Errors: entry and return -/

/-- The four error conditions (60_exceptions.md R211). -/
inductive Err where
  | addr
  | ro
  | busy
  | cmd
  deriving DecidableEq, Repr

/-- The code of an error (60_exceptions.md R211). -/
def Err.code : Err → BitVec 4
  | .addr => 1
  | .ro => 2
  | .busy => 3
  | .cmd => 4

/-- `raise E_X`: the code is recorded if none is (60_exceptions.md R213), and nothing else changes. This is
the engine's whole exception entry: nothing is saved, no mode changes, control goes nowhere. -/
def State.raise (σ : State w) (e : Err) : State w :=
  if σ.errcode = 0 then { σ with errcode := e.code } else σ

/-- A RD that raises an error: the error is recorded and 0 is returned (60_exceptions.md R213). -/
def State.raiseRead (σ : State w) (e : Err) : State w := (σ.raise e).answer 0

/-- `ERRCODE <- 0`, the engine's only analogue of a return from a trap (60_exceptions.md R216). -/
def State.clearError (σ : State w) : State w := { σ with errcode := 0 }

/-! ### The busy check (43_host_access.md R170, step 4) -/

/-- A WR that has passed the address checks: refused with `E_BUSY` during a frame run, else it has the
effect `f`. -/
def State.idleWrite (σ : State w) (f : State w → State w) : State w :=
  if σ.busy then σ.raise .busy else f σ

/-- A RD of the storage that has passed the address checks: refused with `E_BUSY` (returning 0) during a
frame run, else it returns `v` of the state. -/
def State.idleRead (σ : State w) (v : State w → Word w) : State w :=
  if σ.busy then σ.raiseRead .busy else σ.answer (v σ)

end Sys2Proof.Machine
end

