-- ==== Sys2Proof/Machine/Flags.lean ====
section
/-! DEFINITION. The status fields a host can read. There are no arithmetic flags (10_state.md R30); the
"flags" of this hardware are the fields of `STATUS` (R32), and this file computes the word a read returns. -/

namespace Sys2Proof.Machine

variable {w : Nat}

/-- `STATUS.ERR`: 1 exactly when an error is recorded; a function of `ERRCODE`, not a bit of state
(10_state.md R32). -/
def State.err (σ : State w) : Bool := σ.errcode != 0

/-- The word a read of `STATUS` returns: `BUSY + 2*DONE + 4*ERR + 16*ERRCODE`, zero-extended
(43_host_access.md R178). -/
def State.statusWord (σ : State w) : Word w :=
  BitVec.ofNat w
    (σ.busy.toNat + 2 * σ.done.toNat + 4 * σ.err.toNat + 16 * σ.errcode.toNat)

end Sys2Proof.Machine
end

