-- ==== Sys2Proof/Machine/Operands.lean ====
section
/-! DEFINITION. The one operand form of the hardware, an absolute word address (20_memory.md R60): the
address map read as a function, and the word that stands at an address. -/

namespace Sys2Proof.Machine

variable {w : Nat}

/-- What an address names (20_memory.md R61). -/
inductive Region where
  | coef (c s : Fin 8) (k : Fin 5)
  | hist (c s : Fin 8) (j : Fin 2)
  | inbuf (c : Fin 8) (n : Fin 32)
  | outbuf (c : Fin 8) (n : Fin 32)
  | cmd
  | status
  | config
  | width
  deriving DecidableEq, Repr

/-- `Decode(addr)` of 43_host_access.md R170: the region and its indices by the address formats of
30_encoding.md R92; none for a reserved address, a `COEF` slot with `addr[2:0] >= 5` among them. -/
def regionOf (a : Addr) : Option Region :=
  if slice a 11 9 = 0 then
    if h : slice a 2 0 < 5 then some (.coef (field3 a 6) (field3 a 3) ⟨slice a 2 0, h⟩) else none
  else if slice a 11 7 = 4 then some (.hist (field3 a 4) (field3 a 1) (field1 a))
  else if slice a 11 8 = 3 then some (.inbuf (field3 a 5) (field5 a))
  else if slice a 11 8 = 4 then some (.outbuf (field3 a 5) (field5 a))
  else if slice a 11 2 = 0x140 then
    if slice a 1 0 = 0 then some .cmd
    else if slice a 1 0 = 1 then some .status
    else if slice a 1 0 = 2 then some .config
    else some .width
  else none

/-- The word that stands in a region, whether or not a host may read it now. -/
def State.readRegion (σ : State w) : Region → Word w
  | .coef c s k => σ.coefAt c s k
  | .hist c s j => σ.histAt c s j
  | .inbuf c n => σ.inbufAt c n
  | .outbuf c n => σ.outbufAt c n
  | .cmd => 0
  | .status => σ.statusWord
  | .config => Config.configWord w
  | .width => Config.widthWord w

/-- The model's read of one word of the whole address space: the word that stands at the address, 0 at a
reserved address (20_memory.md R61). -/
def State.peek (σ : State w) (a : Addr) : Word w :=
  match regionOf a with
  | some r => σ.readRegion r
  | none => 0

end Sys2Proof.Machine
end

