-- ==== Sys2Proof/Machine/Access.lean ====
section
/-! DEFINITION. The meanings of the ten access operations (43_host_access.md R171 to R180): each is what
the procedure of R170 does with that transaction. -/

namespace Sys2Proof.Machine

variable {w : Nat}

open Host (Outcome)

/-- WRCOEF (43_host_access.md R171): `E_ADDR` if `k >= 5`, `E_BUSY` if busy, else `COEF[c][s][k] <- v`. -/
def execWrcoef (c s k : Fin 8) (v : Word w) (σ : State w) : Outcome (State w) Fault Refusal :=
  if h : k.val < 5 then .next (σ.idleWrite fun σ => σ.setCoef c s ⟨k.val, h⟩ v)
  else .next (σ.raise .addr)

/-- RDCOEF (43_host_access.md R172): `E_ADDR` if `k >= 5`, `E_BUSY` if busy (each returning 0), else it
returns `COEF[c][s][k]`. -/
def execRdcoef (c s k : Fin 8) (σ : State w) : Outcome (State w) Fault Refusal :=
  if h : k.val < 5 then .next (σ.idleRead fun σ => σ.coefAt c s ⟨k.val, h⟩)
  else .next (σ.raiseRead .addr)

/-- RDHIST (43_host_access.md R173): `E_BUSY` if busy (returning 0), else it returns `HIST[c][s][j]`. -/
def execRdhist (c s : Fin 8) (j : Fin 2) (σ : State w) : Outcome (State w) Fault Refusal :=
  .next (σ.idleRead fun σ => σ.histAt c s j)

/-- WRIN (43_host_access.md R174): `E_BUSY` if busy, else `INBUF[c][n] <- v`. -/
def execWrin (c : Fin 8) (n : Fin 32) (v : Word w) (σ : State w) : Outcome (State w) Fault Refusal :=
  .next (σ.idleWrite fun σ => σ.setInbuf c n v)

/-- RDIN (43_host_access.md R175): `E_BUSY` if busy (returning 0), else it returns `INBUF[c][n]`. -/
def execRdin (c : Fin 8) (n : Fin 32) (σ : State w) : Outcome (State w) Fault Refusal :=
  .next (σ.idleRead fun σ => σ.inbufAt c n)

/-- RDOUT (43_host_access.md R176): `E_BUSY` if busy (returning 0), else it returns `OUTBUF[c][n]`. -/
def execRdout (c : Fin 8) (n : Fin 32) (σ : State w) : Outcome (State w) Fault Refusal :=
  .next (σ.idleRead fun σ => σ.outbufAt c n)

/-- RDCMD (43_host_access.md R177): returns 0, idle or busy. -/
def execRdcmd (σ : State w) : Outcome (State w) Fault Refusal :=
  .next (σ.answer 0)

/-- RDSTAT (43_host_access.md R178): returns the status word, idle or busy, and clears nothing. -/
def execRdstat (σ : State w) : Outcome (State w) Fault Refusal :=
  .next (σ.answer σ.statusWord)

/-- RDCFG (43_host_access.md R179): returns the constant `0x2088`, idle or busy. -/
def execRdcfg (σ : State w) : Outcome (State w) Fault Refusal :=
  .next (σ.answer (Config.configWord w))

/-- RDWIDTH (43_host_access.md R180): returns `W`, idle or busy. -/
def execRdwidth (σ : State w) : Outcome (State w) Fault Refusal :=
  .next (σ.answer (Config.widthWord w))

end Sys2Proof.Machine
end

