-- ==== Sys2Proof/Machine/Commands.lean ====
section
/-! DEFINITION. The meanings of the six commands (44_commands.md R190 to R197). While busy no command is
decoded at all: each raises `E_BUSY` and does nothing else (R190). -/

namespace Sys2Proof.Machine

variable {w : Nat}

open Host (Outcome)

/-- NOP (44_commands.md R191): nothing changes. -/
def execNop (σ : State w) : Outcome (State w) Fault Refusal :=
  .next (σ.idleWrite fun σ => σ)

/-- START (44_commands.md R192): begin one frame run; no word of the storage changes. -/
def execStart (σ : State w) : Outcome (State w) Fault Refusal :=
  .next (σ.idleWrite fun σ => σ.beginRun)

/-- INITS (44_commands.md R194): zero the history of one stage. -/
def execInits (c s : Fin 8) (σ : State w) : Outcome (State w) Fault Refusal :=
  .next (σ.idleWrite fun σ => σ.zeroStage c s)

/-- INITC (44_commands.md R195): zero the histories of one channel. -/
def execInitc (c : Fin 8) (σ : State w) : Outcome (State w) Fault Refusal :=
  .next (σ.idleWrite fun σ => σ.zeroChannel c)

/-- INITA (44_commands.md R196): zero all histories. -/
def execInita (σ : State w) : Outcome (State w) Fault Refusal :=
  .next (σ.idleWrite fun σ => σ.zeroAll)

/-- CLRERR (44_commands.md R197): `ERRCODE <- 0`. -/
def execClrerr (σ : State w) : Outcome (State w) Fault Refusal :=
  .next (σ.idleWrite fun σ => σ.clearError)

end Sys2Proof.Machine
end

