-- ==== Sys2Proof/Machine/Dispatch.lean ====
section
/-! DEFINITION. The one match from an instruction to its meaning. -/

namespace Sys2Proof.Machine

open Host (Outcome)

def exec (i : Instr) (s : State) : Host.Outcome State Fault Refusal :=
  match i with
  | .wrcoef c st k v => Sys2Proof.Machine.execWrcoef c st k v s
  | .rdcoef c st k => Sys2Proof.Machine.execRdcoef c st k s
  | .rdhist c st j => Sys2Proof.Machine.execRdhist c st j s
  | .wrin c n v => Sys2Proof.Machine.execWrin c n v s
  | .rdin c n => Sys2Proof.Machine.execRdin c n s
  | .rdout c n => Sys2Proof.Machine.execRdout c n s
  | .rdcmd => Sys2Proof.Machine.execRdcmd s
  | .rdstat => Sys2Proof.Machine.execRdstat s
  | .rdcfg => Sys2Proof.Machine.execRdcfg s
  | .rdwidth => Sys2Proof.Machine.execRdwidth s
  | .nop => Sys2Proof.Machine.execNop s
  | .start => Sys2Proof.Machine.execStart s
  | .inits c st => Sys2Proof.Machine.execInits c st s
  | .initc c => Sys2Proof.Machine.execInitc c s
  | .inita => Sys2Proof.Machine.execInita s
  | .clrerr => Sys2Proof.Machine.execClrerr s

end Sys2Proof.Machine
end

