-- ==== Sys2Proof/Machine/Engine.lean ====
section
/-! DEFINITION. What the engine computes: the integer arithmetic (00_scope.md R10, 40_biquad_stage.md R123),
BIQUAD, CASCADE and FRAME (R121, 41_cascade.md R140, 42_frame.md R150), the lane step (42_frame.md R155), the
completion step (44_commands.md R193), the reset event (70_reset_and_hazards.md R240) and the engine's move
when it is left alone. The data path is written for every width. -/

namespace Sys2Proof.Machine

variable {w : Nat}

/-- `wrap(z)`: the integer of the signed range of `w` bits congruent to `z` (00_scope.md R10). -/
def wrap (w : Nat) (z : Int) : Int := (z + 2 ^ (w - 1)) % 2 ^ w - 2 ^ (w - 1)

/-- The word whose signed reading is `wrap(z)`. -/
def narrow (w : Nat) (z : Int) : BitVec w := BitVec.ofInt w (wrap w z)

/-- What one evaluation of a stage yields: the output `y` and the new history. -/
structure StageOut (w : Nat) where
  y : BitVec w
  hist : History w
  deriving DecidableEq, Repr

/-- The recurrence of 40_biquad_stage.md R121: exact integer sums and products of the signed readings,
each result narrowed once; `y` is the new output and the history the old one throughout (R122). -/
def biquad {w : Nat} (q : CoefSet w) (h : History w) (x : BitVec w) : StageOut w :=
  let y := narrow w (q.b0.toInt * x.toInt + h.s1.toInt)
  let n1 := narrow w (q.b1.toInt * x.toInt - q.a1.toInt * y.toInt + h.s2.toInt)
  let n2 := narrow w (q.b2.toInt * x.toInt - q.a2.toInt * y.toInt)
  { y := y, hist := { s1 := n1, s2 := n2 } }

/-- `BIQUAD(c, s)` on channel `c`: reads `x[c]`, `COEF[c][s]` and `HIST[c][s]`, writes `HIST[c][s]` and
`x[c]` (40_biquad_stage.md R120, R121). -/
def Channel.biquad {w : Nat} (ch : Channel w) (s : Fin 8) : Channel w :=
  let r := Machine.biquad ch.coef[s] ch.hist[s] ch.x
  { ch with hist := ch.hist.set s r.hist, x := r.y }

/-- `x[c] <- INBUF[c][n]` -/
def Channel.load {w : Nat} (ch : Channel w) (n : Fin 32) : Channel w := { ch with x := ch.inbuf[n] }

/-- `OUTBUF[c][n] <- x[c]` -/
def Channel.store {w : Nat} (ch : Channel w) (n : Fin 32) : Channel w :=
  { ch with outbuf := ch.outbuf.set n ch.x }

/-- `CASCADE(c, n)` on channel `c`: load, stages 0 to 7 in order, store (41_cascade.md R140, R141). -/
def Channel.cascade {w : Nat} (ch : Channel w) (n : Fin 32) : Channel w :=
  ((List.finRange 8).foldl Channel.biquad (ch.load n)).store n

/-- The 32 cascades of one channel's frame, in increasing sample order (42_frame.md R150). -/
def Channel.frame {w : Nat} (ch : Channel w) : Channel w :=
  (List.finRange 32).foldl Channel.cascade ch

/-- `LaneStep(c)` on channel `c` (42_frame.md R155), without the check of `BUSY`; a lane at `n = 32` has no
step. -/
def Channel.laneStep {w : Nat} (ch : Channel w) : Channel w :=
  if h : ch.pos.n.val < 32 then
    let n : Fin 32 := ⟨ch.pos.n.val, h⟩
    let loaded := if ch.pos.s = 0 then ch.load n else ch
    let out := loaded.biquad ch.pos.s
    if ch.pos.s = 7 then { out.store n with pos := { n := n.succ, s := 0 } }
    else { out with pos := { n := ch.pos.n, s := ch.pos.s + 1 } }
  else ch

/-! ### The same on the whole state -/

/-- `BIQUAD(c, s)` (40_biquad_stage.md R121). -/
def State.biquad (σ : State w) (c s : Fin 8) : State w := σ.modChan c fun ch => ch.biquad s

/-- `CASCADE(c, n)` (41_cascade.md R140). -/
def State.cascade (σ : State w) (c : Fin 8) (n : Fin 32) : State w := σ.modChan c fun ch => ch.cascade n

/-- `FRAME`, the sequential reference (42_frame.md R150): channel by channel, sample by sample. -/
def State.frame (σ : State w) : State w :=
  (List.finRange 8).foldl (fun σ c => (List.finRange 32).foldl (fun σ n => σ.cascade c n) σ) σ

/-- Lane `c` has a step: `BUSY = 1` and `pos[c].n <= 31` (42_frame.md R155). -/
def State.laneEnabled (σ : State w) (c : Fin 8) : Bool := σ.busy && decide ((σ.posAt c).n.val ≤ 31)

/-- `LaneStep(c)` (42_frame.md R155); where the lane has no step the turn passes (log entry 6). -/
def State.laneStep (σ : State w) (c : Fin 8) : State w :=
  if σ.laneEnabled c then σ.modChan c Channel.laneStep else σ

/-- Every lane has finished: `pos[c] = (32, 0)` for all `c` (42_frame.md R159). -/
def State.lanesFinished (σ : State w) : Bool :=
  (List.finRange 8).all fun c => decide (σ.posAt c = Pos.finished)

/-- The completion step, enabled exactly when `BUSY = 1` and every lane has finished (44_commands.md
R193); where it is not enabled the turn passes (log entry 6). -/
def State.complete (σ : State w) : State w :=
  if σ.busy && σ.lanesFinished then σ.endRun else σ

/-- The reset event, idle or busy (70_reset_and_hazards.md R240, R241): the values of 10_state.md R36, with
a new draw for every unspecified word (R37, log entry 13). A frame run in progress is abandoned. What the host
was answered and what is to happen next stand outside the engine and stay. -/
def State.resetEvent (σ : State w) : State w :=
  { σ with
    chan := Vector.ofFn fun c => Channel.atReset w (σ.epoch + 1) c
    busy := false
    done := false
    errcode := 0
    epoch := σ.epoch + 1 }

/-- The first lane that has a step, in cyclic order from lane `p`. -/
def State.nextLane (σ : State w) (p : Fin 8) : Option (Fin 8) :=
  ((List.finRange 8).map fun i => p + i).find? σ.laneEnabled

/-- The engine's move when no turn is listed: while busy a lane that has a step takes it, the choice
being free (`Config.lanePick`), and when none has one the completion step is taken ("eventually taken",
42_frame.md R159); while idle nothing happens (10_state.md R36). Log entry 5. -/
def State.runAlone (σ : State w) : State w :=
  if σ.busy then
    match σ.nextLane (Config.lanePick σ.turn) with
    | some c => { σ.laneStep c with turn := σ.turn + 1 }
    | none => σ.complete
  else σ

end Sys2Proof.Machine
end

