-- ==== Sys2Proof/Machine/Agents.lean ====
section
/-! DEFINITION. Who acts in a step, at every width: a host transaction, taken through the decoder to its meaning
or, where it selects no row, to the effect 30_encoding.md R96 gives it; a lane; the completion step; the reset
event. -/

namespace Sys2Proof.Machine

variable {w : Nat}

open Host (Outcome)

/-- The meaning of an instruction at every width `w` (00_scope.md R7). `exec` is this match at the default
width, where the host reads it arm by arm; the two call the same sixteen meanings. -/
def perform (i : Instr w) (σ : State w) : Outcome (State w) Fault Refusal :=
  match i with
  | .wrcoef c s k v => execWrcoef c s k v σ
  | .rdcoef c s k => execRdcoef c s k σ
  | .rdhist c s j => execRdhist c s j σ
  | .wrin c n v => execWrin c n v σ
  | .rdin c n => execRdin c n σ
  | .rdout c n => execRdout c n σ
  | .rdcmd => execRdcmd σ
  | .rdstat => execRdstat σ
  | .rdcfg => execRdcfg σ
  | .rdwidth => execRdwidth σ
  | .nop => execNop σ
  | .start => execStart σ
  | .inits c s => execInits c s σ
  | .initc c => execInitc c σ
  | .inita => execInita σ
  | .clrerr => execClrerr σ

/-- A transaction that selects no row: the error is recorded, a RD returns 0, nothing else changes
(30_encoding.md R96, 60_exceptions.md R213). -/
def State.refuse (σ : State w) (t : Transaction w) (e : Err) : State w :=
  if t.isWrite then σ.raise e else σ.raiseRead e

/-- The error of a rejected command word: while busy no command is decoded (44_commands.md R190), so it is
`E_BUSY`, never `E_CMD` (60_exceptions.md R214). -/
def State.commandError (σ : State w) : Err := if σ.busy then .busy else .cmd

/-- One host transaction (43_host_access.md R170). -/
def transact (t : Transaction w) (σ : State w) : Outcome (State w) Fault Refusal :=
  match decode t with
  | .ok i => perform i σ
  | .error .notATransaction => .refused (.notATransaction t.header)
  | .error .reservedAddress => .next (σ.refuse t .addr)
  | .error .readOnlyLocation => .next (σ.refuse t .ro)
  | .error .malformedCommand => .next (σ.refuse t σ.commandError)

/-- One turn, whoever takes it. -/
def takeTurn (u : Turn w) (σ : State w) : Outcome (State w) Fault Refusal :=
  match u with
  | .host t => transact t σ
  | .lane c => .next (σ.laneStep c)
  | .complete => .next σ.complete
  | .reset => .next σ.resetEvent

/-- The next turn of the agenda is taken off it and taken; with none listed the engine moves alone. -/
def nextTurn (σ : State w) : Outcome (State w) Fault Refusal :=
  match σ.agenda with
  | [] => .next σ.runAlone
  | u :: rest => takeTurn u { σ with agenda := rest }

/-- The machine of width `w` behind the host's interface: an engine built at any width (00_scope.md R7).
`Sys2Proof.core` is the one of the default width. -/
def machineAt (w : Nat) : Host.Core where
  State := State w
  Fault := Fault
  Refusal := Refusal
  step := nextTurn
  reset := State.resetAt w

/-- The state with a transaction placed before all other turns: the host issues it now. -/
def State.issue (σ : State w) (t : Transaction w) : State w := { σ with agenda := .host t :: σ.agenda }

end Sys2Proof.Machine
end

