-- ==== Sys2Proof/Machine/Step.lean ====
section
/-! DEFINITION. One step of the machine of the default width (at every width it is `nextTurn`, log entry 1), and
the placing of an instruction where the step fetches its next one: at the head of the agenda (log entry 12). -/

namespace Sys2Proof.Machine

/-- One step: the next turn of the agenda, or the engine's own move. -/
def step (s : State) : Host.Outcome State Fault Refusal := nextTurn s

/-- `s` with the transaction whose bits are `w` (spec/opcode_table.json's numbering) issued by the host
next. -/
def State.withFetchWord (s : State) (nbits w : Nat) : State := s.issue (tableTransaction nbits w)

end Sys2Proof.Machine
end

