-- ==== Sys2Proof/Machine/Pseudo.lean ====
section
/-! DEFINITION. The pseudo-instructions of 30_encoding.md R99: the transactions each stands for, and the two
that wait, which poll `STATUS`. The engine sees only the expansions. -/

namespace Sys2Proof.Machine

variable {w : Nat}

/-- `SETSOS c, s, v0, v1, v2, v3, v4`: one stage's coefficients in the order `[b0, b1, b2, a1, a2]`. -/
def setsos (c s : Fin 8) (v0 v1 v2 v3 v4 : Word w) : List (Instr w) :=
  [.wrcoef c s 0 v0, .wrcoef c s 1 v1, .wrcoef c s 2 v2, .wrcoef c s 3 v3, .wrcoef c s 4 v4]

/-- `SETCHAN c, v0, …, v4`: the same set for the eight stages of a channel. -/
def setchan (c : Fin 8) (v0 v1 v2 v3 v4 : Word w) : List (Instr w) :=
  (List.finRange 8).flatMap fun s => setsos c s v0 v1 v2 v3 v4

/-- `SETALL v0, …, v4`: the same set for every stage of every channel. -/
def setall (v0 v1 v2 v3 v4 : Word w) : List (Instr w) :=
  (List.finRange 8).flatMap fun c => setchan c v0 v1 v2 v3 v4

/-- `LDFRAME c, v0, …, v31`: one channel's input frame. -/
def ldframe (c : Fin 8) (v : Vector (Word w) 32) : List (Instr w) :=
  (List.finRange 32).map fun n => .wrin c n v[n]

/-- `FILLIN c, v`: one channel's input frame, every sample `v`. -/
def fillin (c : Fin 8) (v : Word w) : List (Instr w) := (List.finRange 32).map fun n => .wrin c n v

/-- `FILLALL v`: every input sample of every channel `v`. -/
def fillall (v : Word w) : List (Instr w) := (List.finRange 8).flatMap fun c => fillin c v

/-- The instructions issued by the host next, in their order. -/
def State.issueAll (σ : State w) (is : List (Instr w)) : State w :=
  { σ with agenda := is.map (fun i => Turn.host (encode i)) ++ σ.agenda }

/-- The bit 0 (`BUSY`) of the word the latest read returned; a port that has returned nothing shows 0. -/
def State.sawBusy (σ : State w) : Bool :=
  match σ.reply with
  | some v => slice v 0 0 == 1
  | none => false

/-- One poll of `STATUS`: the state after RDSTAT, none if the transaction does not end in one. -/
def poll (σ : State w) : Option (State w) :=
  match transact (encode .rdstat) σ with
  | .next σ => some σ
  | .fault _ => none
  | .refused _ => none

/-- `moves` turns of the agenda, or moves of the engine left alone, that pass while the host issues nothing. -/
def letPass (moves : Nat) (σ : State w) : Option (State w) :=
  match (machineAt w).run moves σ with
  | .next σ => some σ
  | .fault _ => none
  | .refused _ => none

/-- `WAIT`: repeat RDSTAT until the returned word has bit 0 = 0 (R99). How much of the frame run passes between
one poll and the next is open (42_frame.md R159, 95_test_vectors.md part 8), so it is an argument: `gaps` is the
number of moves after each poll that sees `BUSY`. None if the last poll the list allows still sees `BUSY`, or
if a turn is refused (log entry 20). -/
def waitIdle (gaps : List Nat) (σ : State w) : Option (State w) :=
  match poll σ with
  | none => none
  | some σ =>
    if σ.sawBusy then
      match gaps with
      | [] => none
      | g :: gaps =>
        match letPass g σ with
        | none => none
        | some σ => waitIdle gaps σ
    else some σ

/-- `RUN`: START, then WAIT (R99). How much of the frame run passes between START and the first poll is open too
(a fast engine may complete before it, 42_frame.md R159), so it is the argument `first`: with 0 the first poll
sees `BUSY`, with enough moves no poll does (log entry 20). -/
def runFrame (first : Nat) (gaps : List Nat) (σ : State w) : Option (State w) :=
  match transact (encode .start) σ with
  | .next σ =>
    match letPass first σ with
    | none => none
    | some σ => waitIdle gaps σ
  | .fault _ => none
  | .refused _ => none

end Sys2Proof.Machine
end

