-- ==== Sys2Proof/Safety.lean ====
section
/-! DEFINITION. The terms claims are stated in: what two states share, the invariant of the machine, the spec's
transaction procedure word for word (43_host_access.md R170 with 44_commands.md R190), and the filter of an
unbounded stream. -/

namespace Sys2Proof.Machine

variable {w : Nat}

/-! ### What an instruction leaves alone -/

/-- Every stored word of the address space is the same: all of `COEF`, `HIST`, `INBUF` and `OUTBUF`, and the
constants. The one address left out is `STATUS`, whose fields `sameStatus` compares. -/
def sameStorage (σ τ : State w) : Prop :=
  ∀ a : Addr, a.toNat ≠ statusAddr → τ.peek a = σ.peek a

/-- Every stored word is the same but the one at address `b`. -/
def sameStorageBut (b : Nat) (σ τ : State w) : Prop :=
  ∀ a : Addr, a.toNat ≠ statusAddr → a.toNat ≠ b → τ.peek a = σ.peek a

/-- Every lane's sample in flight and position are the same (10_state.md R28, R29). -/
def sameLanes (σ τ : State w) : Prop := ∀ c, τ.xAt c = σ.xAt c ∧ τ.posAt c = σ.posAt c

/-- `BUSY` and `DONE` are the same (10_state.md R32). -/
def sameRun (σ τ : State w) : Prop := τ.busy = σ.busy ∧ τ.done = σ.done

/-- What stands outside the engine is the same, the port's answer apart: the turns to come and the two
counters of free values. -/
def sameWorld (σ τ : State w) : Prop := τ.agenda = σ.agenda ∧ τ.turn = σ.turn ∧ τ.epoch = σ.epoch

/-- All that is no stored word is the same: the lanes, the status fields, the port's answer and what stands
outside the engine. -/
def sameRest (σ τ : State w) : Prop :=
  sameLanes σ τ ∧ sameRun σ τ ∧ τ.errcode = σ.errcode ∧ τ.reply = σ.reply ∧ sameWorld σ τ

/-- Nothing of the machine differs but the error code and the port's answer. -/
def sameButError (σ τ : State w) : Prop :=
  τ = { σ with errcode := τ.errcode, reply := τ.reply }

/-- What a host can see of the machine without a frame run in progress being visible: the status fields
and what the port answered last (10_state.md R35). -/
def sameFace (σ τ : State w) : Prop :=
  τ.busy = σ.busy ∧ τ.done = σ.done ∧ τ.errcode = σ.errcode ∧ τ.reply = σ.reply

/-! ### Kinds of instruction -/

/-- The instruction is a RD, which returns a word (43_host_access.md R170). -/
def isRead : Instr w → Bool
  | .wrcoef _ _ _ _ => false
  | .rdcoef _ _ _ => true
  | .rdhist _ _ _ => true
  | .wrin _ _ _ => false
  | .rdin _ _ => true
  | .rdout _ _ => true
  | .rdcmd => true
  | .rdstat => true
  | .rdcfg => true
  | .rdwidth => true
  | .nop => false
  | .start => false
  | .inits _ _ => false
  | .initc _ => false
  | .inita => false
  | .clrerr => false

/-- The four reads that succeed idle or busy (43_host_access.md R170, step 3). -/
def isControlRead (i : Instr w) : Bool := i = .rdcmd || i = .rdstat || i = .rdcfg || i = .rdwidth

/-- A turn that leaves a frame run in progress: a lane's step or a transaction, but no completion and no
reset (42_frame.md R156). -/
def midRun : Turn w → Bool
  | .host t => slice t.header 14 12 == 0
  | .lane _ => true
  | .complete => false
  | .reset => false

/-! ### Errors -/

/-- What an error leaves in `ERRCODE`: the code recorded first stays (60_exceptions.md R215). -/
def firstError (old new : BitVec 4) : BitVec 4 := if old = 0 then new else old

/-- The reserved addresses (60_exceptions.md R211, `E_ADDR`). -/
def reservedAddr (a : Nat) : Bool :=
  (a ≤ 0x1FF && 5 ≤ a % 8) || (0x280 ≤ a && a ≤ 0x2FF) || (0x504 ≤ a && a ≤ 0xFFF)

/-- The command words that are reserved or malformed (30_encoding.md R96, its four `CMD` rows). -/
def malformedWord (d : Word w) : Bool :=
  let op := slice d 3 0
  decide (6 ≤ op) || slice d (w - 1) 10 != 0
    || ((op == 0 || op == 1 || op == 4 || op == 5) && slice d 9 4 != 0)
    || (op == 3 && slice d 6 4 != 0)

/-! ### The invariant -/

/-- What holds in every state a run can reach. -/
structure State.Inv (σ : State w) : Prop where
  /-- `BUSY` and `DONE` are never both 1 (10_state.md R32) -/
  exclusive : ¬(σ.busy = true ∧ σ.done = true)
  /-- the codes 5 to 15 never occur (10_state.md R32) -/
  code : σ.errcode.toNat ≤ 4
  /-- during a run a lane past its last sample stands at `(32, 0)` (10_state.md R29) -/
  lanes : σ.busy = true → ∀ c, (σ.posAt c).n.val = 32 → (σ.posAt c).s.val = 0
  /-- once a run has completed every lane stands at `(32, 0)` (10_state.md R35) -/
  finished : σ.done = true → ∀ c, σ.posAt c = Pos.finished

/-- How many lane steps a lane at position `p` has still to take in this frame (42_frame.md R155: 256 a
frame). -/
def Pos.stepsLeft (p : Pos) : Nat := 256 - (p.n.val * 8 + p.s.val)

/-- How many lane steps the frame run has still to take (42_frame.md R159: 2048 in all). -/
def State.stepsLeft (σ : State w) : Nat :=
  ((List.finRange 8).map fun c => (σ.posAt c).stepsLeft).sum

/-- The channels after a frame run: what the sequential reference leaves (42_frame.md R150), every lane at
`(32, 0)`. -/
def State.frameResult (σ : State w) : Vector (Channel w) 8 :=
  σ.frame.chan.map fun ch => { ch with pos := Pos.finished }

/-- Instructions of the default width one after the other, stopping at the first fault or refusal. -/
def execAll : List Instr → State → Host.Outcome State Fault Refusal
  | [], σ => .next σ
  | i :: is, σ =>
    match exec i σ with
    | .next τ => execAll is τ
    | .fault f => .fault f
    | .refused r => .refused r

/-! ### The procedure of R170, word for word -/

/-- A host write to this region is illegal (43_host_access.md R170, step 2). -/
def Region.readOnly : Region → Bool
  | .coef _ _ _ => false
  | .hist _ _ _ => true
  | .inbuf _ _ => false
  | .outbuf _ _ => true
  | .cmd => false
  | .status => true
  | .config => true
  | .width => true

/-- A read of this region succeeds idle or busy (43_host_access.md R170, step 3). -/
def Region.control : Region → Bool
  | .coef _ _ _ => false
  | .hist _ _ _ => false
  | .inbuf _ _ => false
  | .outbuf _ _ => false
  | .cmd => true
  | .status => true
  | .config => true
  | .width => true

/-- A command word is well formed (44_commands.md R190). -/
def commandOk (d : Word w) : Bool :=
  let op := slice d 3 0
  let s := slice d 6 4
  let c := slice d 9 7
  let hi := slice d (w - 1) 10
  hi == 0 &&
    (((op == 0 || op == 1 || op == 4 || op == 5) && s == 0 && c == 0) || op == 2 || (op == 3 && s == 0))

/-- `Dispatch(d)` of 44_commands.md R190, for an idle engine. -/
def dispatchCommand (d : Word w) (σ : State w) : State w :=
  if commandOk d then
    match slice d 3 0 with
    | 0 => σ
    | 1 => σ.beginRun
    | 2 => σ.zeroStage (field3 d 7) (field3 d 4)
    | 3 => σ.zeroChannel (field3 d 7)
    | 4 => σ.zeroAll
    | _ => σ.clearError
  else σ.raise .cmd

/-- `Transaction(rw, addr, data)` of 43_host_access.md R170, its five steps in their order. -/
def procedure (isWr : Bool) (a : Addr) (d : Word w) (σ : State w) : State w :=
  match regionOf a with
  | none => if isWr then σ.raise .addr else σ.raiseRead .addr
  | some r =>
    if isWr && r.readOnly then σ.raise .ro
    else if !isWr && r.control then σ.answer (σ.readRegion r)
    else if σ.busy then (if isWr then σ.raise .busy else σ.raiseRead .busy)
    else if isWr then
      match r with
      | .coef c s k => σ.setCoef c s k d
      | .inbuf c n => σ.setInbuf c n d
      | .cmd => dispatchCommand d σ
      | .hist _ _ _ => σ
      | .outbuf _ _ => σ
      | .status => σ
      | .config => σ
      | .width => σ
    else σ.answer (σ.readRegion r)

/-! ### The filter of a stream -/

/-- One sample through the eight stages: the last output and the eight histories left
(41_cascade.md R140), as a function of the coefficients, the histories and the sample alone. -/
def filterSample {w : Nat} (q : Vector (CoefSet w) 8) (h : Vector (History w) 8) (x : BitVec w) :
    BitVec w × Vector (History w) 8 :=
  (List.finRange 8).foldl
    (fun (acc : BitVec w × Vector (History w) 8) (s : Fin 8) =>
      ((biquad q[s] acc.2[s] acc.1).y, acc.2.set s (biquad q[s] acc.2[s] acc.1).hist))
    (x, h)

/-- A list of samples through one cascade, in order (42_frame.md R164). -/
def filterStream {w : Nat} (q : Vector (CoefSet w) 8) :
    Vector (History w) 8 → List (BitVec w) → List (BitVec w) × Vector (History w) 8
  | h, [] => ([], h)
  | h, x :: xs =>
    ((filterSample q h x).1 :: (filterStream q (filterSample q h x).2 xs).1,
      (filterStream q (filterSample q h x).2 xs).2)

/-- Frame after frame of one channel, each with its own 32 input samples: all the output samples in order,
and the channel left. -/
def Channel.frames {w : Nat} :
    List (Vector (BitVec w) 32) → Channel w → List (BitVec w) × Channel w
  | [], ch => ([], ch)
  | b :: bs, ch =>
    ((Channel.frame { ch with inbuf := b }).outbuf.toList
        ++ (Channel.frames bs (Channel.frame { ch with inbuf := b })).1,
      (Channel.frames bs (Channel.frame { ch with inbuf := b })).2)

end Sys2Proof.Machine
end

