-- ==== Sys2Proof/Certificates/Slice0/Obligations.lean ====
section
/-! DEFINITION. The statements for the provers, made from the numbered rules of the spec. Those that name `exec`,
`step` or `State.reset` are about the machine of the default width; those with an argument `w` are about the
machine of every width, with `16 <= w` (00_scope.md R7) where the control words need it. -/

open Sys2Proof Sys2Proof.Machine

/-! ### Encoding -/

/-- 30_encoding.md R92, R93, R95, R98: the transaction written for an instruction decodes to it, with every
operand at every value, at every width. -/
def Obligations.EncodedInstructionDecodesBack : Prop :=
  ∀ w : Nat, 16 ≤ w → ∀ i : Instr w, decode (encode i) = .ok i

/-- 30_encoding.md R90, R92, R95, R98: no bit of a decoded transaction is dropped, the ignored data word of a
RD apart, at every width. -/
def Obligations.DecodedTransactionEncodesBack : Prop :=
  ∀ w : Nat, 16 ≤ w → ∀ (t : Transaction w) (i : Instr w), decode t = .ok i →
    (encode i).header = t.header ∧ (t.isWrite = true → encode i = t)

/-- 30_encoding.md R95: no transaction selects two rows of the opcode map. -/
def Obligations.OpcodeRowsAreDisjoint : Prop :=
  ∀ (w : Nat) (t : Transaction w), ∀ r ∈ opcodeRows, ∀ q ∈ opcodeRows,
    r.selects t = true → q.selects t = true → r.mnemonic = q.mnemonic

/-- 30_encoding.md R96, first row: a header with bits `[14:12]` set names no transaction and never reaches the
machine (the refusal is log entry 10). -/
def Obligations.SetHeaderBitsNameNoTransaction : Prop :=
  ∀ (t : Transaction) (σ : State), slice t.header 14 12 ≠ 0 →
    decode t = .error .notATransaction
      ∧ step (σ.issue t) = .refused (.notATransaction t.header)

/-- Words written out from 30_encoding.md R92, R93: an access of each region and a command of each shape. -/
def Obligations.WordsOfTheSpecDecodeRight : Prop :=
  decode (⟨0b1000000011101010, 7⟩ : Transaction) = .ok (.wrcoef 3 5 2 7)
    ∧ decode (⟨0b0000000111111100, 0⟩ : Transaction) = .ok (.rdcoef 7 7 4)
    ∧ decode (⟨0b0000001000101101, 0⟩ : Transaction) = .ok (.rdhist 2 6 1)
    ∧ decode (⟨0b1000001110010001, 9⟩ : Transaction) = .ok (.wrin 4 17 9)
    ∧ decode (⟨0b0000010000100010, 0⟩ : Transaction) = .ok (.rdout 1 2)
    ∧ decode (⟨0b0000010100000001, 0⟩ : Transaction) = .ok .rdstat
    ∧ decode (⟨0b1000010100000000, 0b0000000001⟩ : Transaction) = .ok .start
    ∧ decode (⟨0b1000010100000000, 0b0101100010⟩ : Transaction) = .ok (.inits 2 6)
    ∧ decode (⟨0b1000010100000000, 0b0110000011⟩ : Transaction) = .ok (.initc 3)
    ∧ decode (⟨0b1000010100000000, 0b0000010001⟩ : Transaction) = .error .malformedCommand

/-! ### The transaction procedure and its errors -/

/-- 43_host_access.md R170 with 44_commands.md R190: what the machine does with a transaction, through its
decoder and its meanings, is what the spec's procedure does with it, at every width. -/
def Obligations.TransactionFollowsTheProcedure : Prop :=
  ∀ w : Nat, 16 ≤ w → ∀ (t : Transaction w) (σ : State w), slice t.header 14 12 = 0 →
    transact t σ = .next (procedure t.isWrite (BitVec.ofNat 12 t.addr) t.data σ)

/-- 43_host_access.md R182: a reserved address raises `E_ADDR`, idle or busy; a RD returns 0. -/
def Obligations.ReservedAddressRaisesAddr : Prop :=
  ∀ w : Nat, 16 ≤ w → ∀ (t : Transaction w) (σ : State w), slice t.header 14 12 = 0 →
    reservedAddr t.addr = true →
    transact t σ = .next { σ with
      errcode := firstError σ.errcode 1
      reply := if t.isWrite then σ.reply else some 0 }

/-- 43_host_access.md R181: a WR to `HIST`, `OUTBUF`, `STATUS`, `CONFIG` or `WIDTH` raises `E_RO`, idle or busy,
and changes nothing else. -/
def Obligations.ReadOnlyWriteRaisesRo : Prop :=
  ∀ w : Nat, 16 ≤ w → ∀ (t : Transaction w) (σ : State w), slice t.header 14 12 = 0 →
    t.isWrite = true →
    ((0x200 ≤ t.addr ∧ t.addr ≤ 0x27F) ∨ (0x400 ≤ t.addr ∧ t.addr ≤ 0x4FF)
      ∨ t.addr = 0x501 ∨ t.addr = 0x502 ∨ t.addr = 0x503) →
    transact t σ = .next { σ with errcode := firstError σ.errcode 2 }

/-- 44_commands.md R198: a reserved or malformed command word, while idle, raises `E_CMD` and has no other
effect. -/
def Obligations.MalformedCommandRaisesCmd : Prop :=
  ∀ w : Nat, 16 ≤ w → ∀ (t : Transaction w) (σ : State w), t.header = 0x8500 →
    σ.busy = false → malformedWord t.data = true →
    transact t σ = .next { σ with errcode := firstError σ.errcode 4 }

/-- 60_exceptions.md R211, R214: a transaction raises at most one error, the first that applies in the order
`E_ADDR`, `E_RO`, `E_BUSY`, `E_CMD`. -/
def Obligations.FirstApplicableErrorIsRaised : Prop :=
  ∀ w : Nat, 16 ≤ w → ∀ (t : Transaction w) (σ : State w), slice t.header 14 12 = 0 →
    σ.errcode = 0 →
    ∃ τ, transact t σ = .next τ ∧
      τ.errcode =
        if reservedAddr t.addr = true then 1
        else if t.isWrite = true ∧ readOnlyAddr t.addr = true then 2
        else if σ.busy = true ∧ (t.isWrite = true ∨ t.addr < 0x500) then 3
        else if t.isWrite = true ∧ t.addr = 0x500 ∧ malformedWord t.data = true then 4
        else 0

/-- 60_exceptions.md R211, R213: `raise` records the error's code if none is recorded, and nothing more. -/
def Obligations.RaiseRecordsTheFirstCode : Prop :=
  ∀ (w : Nat) (σ : State w),
    σ.raise .addr = { σ with errcode := if σ.errcode = 0 then 1 else σ.errcode }
      ∧ σ.raise .ro = { σ with errcode := if σ.errcode = 0 then 2 else σ.errcode }
      ∧ σ.raise .busy = { σ with errcode := if σ.errcode = 0 then 3 else σ.errcode }
      ∧ σ.raise .cmd = { σ with errcode := if σ.errcode = 0 then 4 else σ.errcode }

/-- 60_exceptions.md R215: once non-zero, `ERRCODE` keeps its value through every step but an accepted CLRERR
and a reset, which clear it, at every width (`step` is `nextTurn` at the default width). -/
def Obligations.ErrorCodeIsSticky : Prop :=
  ∀ (w : Nat) (σ τ : State w), σ.errcode ≠ 0 → nextTurn σ = .next τ →
    τ.errcode = σ.errcode
      ∨ (τ.errcode = 0 ∧ ∃ rest, σ.agenda = .reset :: rest)
      ∨ (τ.errcode = 0 ∧ σ.busy = false
          ∧ ∃ t rest, σ.agenda = .host t :: rest ∧ decode t = .ok .clrerr)

/-- 60_exceptions.md R213: a recorded error blocks nothing. Every instruction does to the machine what it
does with another code recorded, the code itself and (for RDSTAT, which reads it) the answer apart. -/
def Obligations.RecordedErrorBlocksNothing : Prop :=
  ∀ (i : Instr) (σ : State) (e : BitVec 4), ∃ τ ρ,
    exec i σ = .next τ ∧ exec i { σ with errcode := e } = .next ρ
      ∧ ρ = { τ with errcode := ρ.errcode, reply := ρ.reply }
      ∧ (i ≠ .rdstat → ρ.reply = τ.reply)

/-- 60_exceptions.md R213, R217: no step stops the machine, but for a host turn that is no transaction (log
entry 10). -/
def Obligations.OnlyInvalidHeadersStop : Prop :=
  ∀ σ : State, (∃ τ, step σ = .next τ)
    ∨ ∃ t rest, σ.agenda = .host t :: rest ∧ slice t.header 14 12 ≠ 0
        ∧ step σ = .refused (.notATransaction t.header)

/-! ### The ten accesses -/

/-- 43_host_access.md R171: the encoding of WRCOEF, its effect, and when it raises `E_ADDR` and `E_BUSY`. -/
def Obligations.WrcoefWritesOneCoefficient : Prop :=
  ∀ (c s k : Fin 8) (v : Word) (σ : State),
    (encode (.wrcoef c s k v)).header.toNat = 0x8000 + (c.val * 64 + s.val * 8 + k.val)
      ∧ (encode (.wrcoef c s k v)).data = v
      ∧ (∀ h : k.val < 5, σ.busy = false →
          ∃ τ, exec (.wrcoef c s k v) σ = .next τ ∧ τ.coefAt c s ⟨k.val, h⟩ = v
            ∧ sameStorageBut (c.val * 64 + s.val * 8 + k.val) σ τ ∧ sameRest σ τ)
      ∧ (5 ≤ k.val →
          exec (.wrcoef c s k v) σ = .next { σ with errcode := firstError σ.errcode 1 })
      ∧ (k.val < 5 → σ.busy = true →
          exec (.wrcoef c s k v) σ = .next { σ with errcode := firstError σ.errcode 3 })

/-- 43_host_access.md R172: the encoding of RDCOEF, what it returns, and when it raises `E_ADDR` and `E_BUSY`
(returning 0). -/
def Obligations.RdcoefReturnsTheCoefficient : Prop :=
  ∀ (c s k : Fin 8) (σ : State),
    (encode (.rdcoef c s k) : Transaction).header.toNat = c.val * 64 + s.val * 8 + k.val
      ∧ (∀ h : k.val < 5, σ.busy = false →
          exec (.rdcoef c s k) σ = .next { σ with reply := some (σ.coefAt c s ⟨k.val, h⟩) })
      ∧ (5 ≤ k.val →
          exec (.rdcoef c s k) σ
            = .next { σ with errcode := firstError σ.errcode 1, reply := some 0 })
      ∧ (k.val < 5 → σ.busy = true →
          exec (.rdcoef c s k) σ
            = .next { σ with errcode := firstError σ.errcode 3, reply := some 0 })

/-- 43_host_access.md R173: the encoding of RDHIST, what it returns, and `E_BUSY` (returning 0). -/
def Obligations.RdhistReturnsTheHistory : Prop :=
  ∀ (c s : Fin 8) (j : Fin 2) (σ : State),
    (encode (.rdhist c s j) : Transaction).header.toNat = 0x200 + c.val * 16 + s.val * 2 + j.val
      ∧ (σ.busy = false →
          exec (.rdhist c s j) σ = .next { σ with reply := some (σ.histAt c s j) })
      ∧ (σ.busy = true →
          exec (.rdhist c s j) σ
            = .next { σ with errcode := firstError σ.errcode 3, reply := some 0 })

/-- 43_host_access.md R174: the encoding of WRIN, its effect, and `E_BUSY`. -/
def Obligations.WrinWritesOneSample : Prop :=
  ∀ (c : Fin 8) (n : Fin 32) (v : Word) (σ : State),
    (encode (.wrin c n v)).header.toNat = 0x8300 + (c.val * 32 + n.val)
      ∧ (encode (.wrin c n v)).data = v
      ∧ (σ.busy = false →
          ∃ τ, exec (.wrin c n v) σ = .next τ ∧ τ.inbufAt c n = v
            ∧ sameStorageBut (0x300 + c.val * 32 + n.val) σ τ ∧ sameRest σ τ)
      ∧ (σ.busy = true →
          exec (.wrin c n v) σ = .next { σ with errcode := firstError σ.errcode 3 })

/-- 43_host_access.md R175: the encoding of RDIN, what it returns, and `E_BUSY` (returning 0). -/
def Obligations.RdinReturnsTheInput : Prop :=
  ∀ (c : Fin 8) (n : Fin 32) (σ : State),
    (encode (.rdin c n) : Transaction).header.toNat = 0x300 + c.val * 32 + n.val
      ∧ (σ.busy = false → exec (.rdin c n) σ = .next { σ with reply := some (σ.inbufAt c n) })
      ∧ (σ.busy = true →
          exec (.rdin c n) σ
            = .next { σ with errcode := firstError σ.errcode 3, reply := some 0 })

/-- 43_host_access.md R176: the encoding of RDOUT, what it returns, and `E_BUSY` (returning 0). -/
def Obligations.RdoutReturnsTheOutput : Prop :=
  ∀ (c : Fin 8) (n : Fin 32) (σ : State),
    (encode (.rdout c n) : Transaction).header.toNat = 0x0400 + (c.val * 32 + n.val)
      ∧ (σ.busy = false → exec (.rdout c n) σ = .next { σ with reply := some (σ.outbufAt c n) })
      ∧ (σ.busy = true →
          exec (.rdout c n) σ
            = .next { σ with errcode := firstError σ.errcode 3, reply := some 0 })

/-- 43_host_access.md R177 to R180: the encodings of the four control reads; they answer idle or busy and change
nothing. The last clause says at every width what the machine does with the two that read a constant: `CONFIG` is
`0x2088` and `WIDTH` is `W`. -/
def Obligations.ControlReadsAnswerAlways : Prop :=
  encode .rdcmd = (⟨0x0500, 0⟩ : Transaction) ∧ encode .rdstat = (⟨0x0501, 0⟩ : Transaction)
    ∧ encode .rdcfg = (⟨0x0502, 0⟩ : Transaction)
    ∧ encode .rdwidth = (⟨0x0503, 0⟩ : Transaction)
    ∧ (∀ σ : State,
      exec .rdcmd σ = .next { σ with reply := some 0 }
        ∧ exec .rdstat σ = .next { σ with reply := some (BitVec.ofNat Config.W
            (σ.busy.toNat + 2 * σ.done.toNat + 4 * (if σ.errcode = 0 then 0 else 1)
              + 16 * σ.errcode.toNat)) }
        ∧ exec .rdcfg σ = .next { σ with reply := some 0x2088 }
        ∧ exec .rdwidth σ = .next { σ with reply := some (BitVec.ofNat Config.W Config.W) })
    ∧ ∀ w : Nat, 16 ≤ w → ∀ σ : State w,
      transact ⟨0x0502, 0⟩ σ = .next { σ with reply := some (BitVec.ofNat w 0x2088) }
        ∧ transact ⟨0x0503, 0⟩ σ = .next { σ with reply := some (BitVec.ofNat w w) }

/-- 10_state.md R32: the fields of the word RDSTAT returns stand where the table puts them, the reserved bits
reading 0. -/
def Obligations.StatusWordHasItsFields : Prop :=
  ∀ σ : State, ∃ v : Word, exec .rdstat σ = .next { σ with reply := some v }
    ∧ slice v 0 0 = σ.busy.toNat ∧ slice v 1 1 = σ.done.toNat
    ∧ slice v 2 2 = (if σ.errcode = 0 then 0 else 1) ∧ slice v 3 3 = 0
    ∧ slice v 7 4 = σ.errcode.toNat ∧ slice v (Config.W - 1) 8 = 0

/-- 20_memory.md R68: the only state a RD can change is `ERRCODE`, and that only when the RD itself is an
error. Frame of the eight RD instructions' families. -/
def Obligations.ReadsChangeNothing : Prop :=
  ∀ (i : Instr) (σ τ : State), isRead i = true → exec i σ = .next τ →
    sameStorage σ τ ∧ sameLanes σ τ ∧ sameRun σ τ ∧ sameWorld σ τ
      ∧ (σ.busy = false ∨ isControlRead i = true → WellFormed i → τ.errcode = σ.errcode)

/-- Frame of WRCOEF and WRIN (43_host_access.md R171, R174): one word of the address space, the address the
encoder computes, and nothing of the lanes, of `BUSY`, of `DONE` or of the port's answer. -/
def Obligations.StorageWritesTouchOneWord : Prop :=
  (∀ (c s k : Fin 8) (v : Word) (σ τ : State), exec (.wrcoef c s k v) σ = .next τ →
      sameStorageBut (coefAddr c s k) σ τ ∧ (5 ≤ k.val ∨ σ.busy = true → sameStorage σ τ)
        ∧ sameLanes σ τ ∧ sameRun σ τ ∧ τ.reply = σ.reply ∧ sameWorld σ τ)
    ∧ (∀ (c : Fin 8) (n : Fin 32) (v : Word) (σ τ : State), exec (.wrin c n v) σ = .next τ →
      sameStorageBut (inbufAddr c n) σ τ ∧ (σ.busy = true → sameStorage σ τ)
        ∧ sameLanes σ τ ∧ sameRun σ τ ∧ τ.reply = σ.reply ∧ sameWorld σ τ)

/-! ### The six commands -/

/-- 44_commands.md R191: NOP changes nothing; `E_BUSY` if busy. -/
def Obligations.NopDoesNothing : Prop :=
  encode .nop = (⟨0x8500, 0⟩ : Transaction)
    ∧ ∀ σ : State, (σ.busy = false → exec .nop σ = .next σ)
      ∧ (σ.busy = true → exec .nop σ = .next { σ with errcode := firstError σ.errcode 3 })

/-- 44_commands.md R192: START clears `DONE`, sets `BUSY` and puts every lane at `(0, 0)`, and changes no word
of the storage and no error code; `E_BUSY` if a run is in progress, which is then not disturbed. -/
def Obligations.StartBeginsOneRun : Prop :=
  encode .start = (⟨0x8500, 1⟩ : Transaction)
    ∧ ∀ σ : State,
      (σ.busy = false → ∃ τ, exec .start σ = .next τ ∧ τ.busy = true ∧ τ.done = false
          ∧ (∀ c, τ.posAt c = { n := 0, s := 0 }) ∧ (∀ c, τ.xAt c = σ.xAt c) ∧ sameStorage σ τ
          ∧ τ.errcode = σ.errcode ∧ τ.reply = σ.reply ∧ sameWorld σ τ)
      ∧ (σ.busy = true → exec .start σ = .next { σ with errcode := firstError σ.errcode 3 })

/-- 44_commands.md R194: INITS zeroes the two history registers of its stage and nothing else; `E_BUSY` if
busy. -/
def Obligations.InitsZeroesOneStage : Prop :=
  ∀ (c s : Fin 8) (σ : State),
    encode (.inits c s)
        = (⟨0x8500, BitVec.ofNat Config.W (2 + s.val * 16 + c.val * 128)⟩ : Transaction)
      ∧ (σ.busy = false → ∃ τ, exec (.inits c s) σ = .next τ
          ∧ (∀ c' s' j, τ.histAt c' s' j = if c = c' ∧ s = s' then 0 else σ.histAt c' s' j)
          ∧ (∀ a : Addr, (a.toNat < 0x200 ∨ 0x27F < a.toNat) → τ.peek a = σ.peek a)
          ∧ sameRest σ τ)
      ∧ (σ.busy = true →
          exec (.inits c s) σ = .next { σ with errcode := firstError σ.errcode 3 })

/-- 44_commands.md R195: INITC zeroes the sixteen history registers of its channel and nothing else; it equals
`INITS c, 0; ...; INITS c, 7`; `E_BUSY` if busy. -/
def Obligations.InitcZeroesOneChannel : Prop :=
  ∀ (c : Fin 8) (σ : State),
    encode (.initc c) = (⟨0x8500, BitVec.ofNat Config.W (3 + c.val * 128)⟩ : Transaction)
      ∧ (σ.busy = false → ∃ τ, exec (.initc c) σ = .next τ
          ∧ (∀ c' s j, τ.histAt c' s j = if c = c' then 0 else σ.histAt c' s j)
          ∧ (∀ a : Addr, (a.toNat < 0x200 ∨ 0x27F < a.toNat) → τ.peek a = σ.peek a)
          ∧ sameRest σ τ
          ∧ execAll ((List.finRange 8).map fun s => .inits c s) σ = .next τ)
      ∧ (σ.busy = true →
          exec (.initc c) σ = .next { σ with errcode := firstError σ.errcode 3 })

/-- 44_commands.md R196: INITA zeroes all 128 history registers and nothing else; it equals `INITC 0; ...;
INITC 7`; `E_BUSY` if busy. -/
def Obligations.InitaZeroesAll : Prop :=
  encode .inita = (⟨0x8500, 4⟩ : Transaction)
    ∧ ∀ σ : State,
      (σ.busy = false → ∃ τ, exec .inita σ = .next τ
          ∧ (∀ c s j, τ.histAt c s j = 0)
          ∧ (∀ a : Addr, (a.toNat < 0x200 ∨ 0x27F < a.toNat) → τ.peek a = σ.peek a)
          ∧ sameRest σ τ
          ∧ execAll ((List.finRange 8).map fun c => .initc c) σ = .next τ)
      ∧ (σ.busy = true → exec .inita σ = .next { σ with errcode := firstError σ.errcode 3 })

/-- 44_commands.md R197: CLRERR clears the code and nothing else; while busy it clears nothing and leaves a
non-zero code. -/
def Obligations.ClrerrClearsTheCode : Prop :=
  encode .clrerr = (⟨0x8500, 5⟩ : Transaction)
    ∧ ∀ σ : State,
      (σ.busy = false → exec .clrerr σ = .next { σ with errcode := 0 })
      ∧ (σ.busy = true → exec .clrerr σ = .next { σ with errcode := firstError σ.errcode 3 }
          ∧ firstError σ.errcode 3 ≠ 0)

/-- Frame of the six commands (44_commands.md R191 to R199). A command changes no word but the history registers
it names: those of one stage (INITS), of one channel (INITC) or all (INITA), at the addresses `histAddr` of
20_memory.md R63; NOP, START and CLRERR change none, nor does any command while busy. Only START touches `BUSY`,
`DONE` and the positions, only CLRERR (or an error) `ERRCODE`; none touches `x`, the port's answer or what stands
outside the engine. -/
def Obligations.CommandsTouchOnlyTheirTarget : Prop :=
  ∀ (i : Instr) (σ τ : State),
    (i = .nop ∨ i = .start ∨ (∃ c s, i = .inits c s) ∨ (∃ c, i = .initc c) ∨ i = .inita ∨ i = .clrerr) →
    exec i σ = .next τ →
      (∀ a : Addr, a.toNat ≠ statusAddr →
        (∀ (c s : Fin 8) (j : Fin 2), i = .inits c s ∨ i = .initc c ∨ i = .inita →
          a.toNat ≠ histAddr c s j) → τ.peek a = σ.peek a)
      ∧ (i = .nop ∨ i = .start ∨ i = .clrerr ∨ σ.busy = true → sameStorage σ τ)
      ∧ (i ≠ .start → sameRun σ τ ∧ sameLanes σ τ)
      ∧ (σ.busy = false → i ≠ .clrerr → τ.errcode = σ.errcode)
      ∧ (∀ c, τ.xAt c = σ.xAt c) ∧ τ.reply = σ.reply ∧ sameWorld σ τ

/-! ### A frame run seen from the host -/

/-- 43_host_access.md R183: while busy every access of the storage and every command raises `E_BUSY`, a WR to
`CMD` whatever its data word; writes are dropped and reads return 0. -/
def Obligations.BusyRefusesEveryAccess : Prop :=
  (∀ (i : Instr) (σ : State), σ.busy = true → WellFormed i → isControlRead i = false →
      exec i σ = .next { σ with
        errcode := firstError σ.errcode 3
        reply := if isRead i then some 0 else σ.reply })
    ∧ ∀ (d : Word) (σ : State), σ.busy = true →
      transact ⟨0x8500, d⟩ σ = .next { σ with errcode := firstError σ.errcode 3 }

/-- 60_exceptions.md R218: a transaction issued while busy changes the error code and the port's answer
alone. 10_state.md R35: nothing of the storage, of `x` or of `pos` can be observed during a run, so two busy
machines with the same status fields and the same last answer give the same answer to every transaction and
keep the same status fields. -/
def Obligations.MidFrameStateIsUnobservable : Prop :=
  ∀ w : Nat, 16 ≤ w → ∀ (t : Transaction w) (σ ρ : State w), slice t.header 14 12 = 0 →
    σ.busy = true → sameFace σ ρ →
    ∃ τ π, transact t σ = .next τ ∧ transact t ρ = .next π ∧ sameButError σ τ ∧ sameFace τ π

/-! ### The arithmetic and the operations of the engine -/

/-- 00_scope.md R10: `wrap(z)` is the unique integer of the signed range congruent to `z` modulo `2^w`. -/
def Obligations.WrapIsTheUniqueResidue : Prop :=
  ∀ (w : Nat) (z : Int), 0 < w →
    (-(2 ^ (w - 1)) ≤ wrap w z ∧ wrap w z < 2 ^ (w - 1) ∧ (2 ^ w : Int) ∣ z - wrap w z)
      ∧ ∀ y : Int, -(2 ^ (w - 1)) ≤ y → y < 2 ^ (w - 1) → (2 ^ w : Int) ∣ z - y → y = wrap w z

/-- 40_biquad_stage.md R121, R122: the recurrence, every result narrowed once, at every width. -/
def Obligations.BiquadIsTheWrappedRecurrence : Prop :=
  ∀ (w : Nat) (q : CoefSet w) (h : History w) (x : BitVec w), 16 ≤ w →
    (biquad q h x).y.toInt = wrap w (q.b0.toInt * x.toInt + h.s1.toInt)
      ∧ (biquad q h x).hist.s1.toInt
          = wrap w (q.b1.toInt * x.toInt - q.a1.toInt * (biquad q h x).y.toInt + h.s2.toInt)
      ∧ (biquad q h x).hist.s2.toInt
          = wrap w (q.b2.toInt * x.toInt - q.a2.toInt * (biquad q h x).y.toInt)

/-- 40_biquad_stage.md R124: the result does not depend on where it is narrowed. Narrowing after every single
operation, as the operations of bit vectors do, gives the same words, at every width. -/
def Obligations.BiquadIsModularArithmetic : Prop :=
  ∀ (w : Nat) (q : CoefSet w) (h : History w) (x : BitVec w),
    biquad q h x =
      { y := q.b0 * x + h.s1
        hist :=
          { s1 := q.b1 * x - q.a1 * (q.b0 * x + h.s1) + h.s2
            s2 := q.b2 * x - q.a2 * (q.b0 * x + h.s1) } }

/-- 40_biquad_stage.md R120, R121, R130: `BIQUAD(c, s)` writes `x[c]` and the two history registers of its
stage, and nothing else. -/
def Obligations.BiquadChangesOnlyItsStage : Prop :=
  ∀ (w : Nat) (σ : State w) (c s : Fin 8),
    (σ.biquad c s).xAt c = (biquad σ.chan[c].coef[s] (σ.histPair c s) (σ.xAt c)).y
      ∧ (σ.biquad c s).histPair c s
          = (biquad σ.chan[c].coef[s] (σ.histPair c s) (σ.xAt c)).hist
      ∧ (∀ a : Addr, a.toNat ≠ 0x200 + c.val * 16 + s.val * 2 →
          a.toNat ≠ 0x200 + c.val * 16 + s.val * 2 + 1 → (σ.biquad c s).peek a = σ.peek a)
      ∧ (∀ d, d ≠ c → (σ.biquad c s).xAt d = σ.xAt d)
      ∧ (∀ d, (σ.biquad c s).posAt d = σ.posAt d)
      ∧ sameRun σ (σ.biquad c s) ∧ (σ.biquad c s).errcode = σ.errcode
      ∧ (σ.biquad c s).reply = σ.reply ∧ sameWorld σ (σ.biquad c s)

/-- 41_cascade.md R140 to R143: `CASCADE(c, n)` is the chain of the eight stages on `INBUF[c][n]`, stage 0 first,
each with its own coefficients and history; the last output goes to `OUTBUF[c][n]`. -/
def Obligations.CascadeIsTheChainOfStages : Prop :=
  ∀ (w : Nat) (ch : Channel w) (n : Fin 32),
    ch.cascade n =
      { ch with
        hist := (filterSample ch.coef ch.hist ch.inbuf[n]).2
        outbuf := ch.outbuf.set n (filterSample ch.coef ch.hist ch.inbuf[n]).1
        x := (filterSample ch.coef ch.hist ch.inbuf[n]).1 }

/-- 40_biquad_stage.md R131 (a), (b), 41_cascade.md R144 (a), (b): zero through any stage, and through any
cascade, of zero history gives zero and leaves zero history; an identity stage, and the cascade of eight, of zero
history passes any sample through and stays at zero history. -/
def Obligations.ZeroAndIdentityPassThrough : Prop :=
  (∀ (w : Nat) (q : CoefSet w),
      biquad q { s1 := 0, s2 := 0 } 0 = { y := 0, hist := { s1 := 0, s2 := 0 } })
    ∧ (∀ (w : Nat) (x : BitVec w),
      biquad { b0 := 1, b1 := 0, b2 := 0, a1 := 0, a2 := 0 } { s1 := 0, s2 := 0 } x
        = { y := x, hist := { s1 := 0, s2 := 0 } })
    ∧ ∀ (w : Nat) (ch : Channel w) (n : Fin 32), (∀ s : Fin 8, ch.hist[s] = { s1 := 0, s2 := 0 }) →
      (ch.inbuf[n] = 0 → (ch.cascade n).outbuf[n] = 0 ∧ (ch.cascade n).hist = ch.hist)
        ∧ ((∀ s : Fin 8, ch.coef[s] = { b0 := 1, b1 := 0, b2 := 0, a1 := 0, a2 := 0 }) →
            (ch.cascade n).outbuf[n] = ch.inbuf[n] ∧ (ch.cascade n).hist = ch.hist)

/-- 42_frame.md R150: the sequential reference, sample by sample and channel by channel, acts on each channel
by itself and changes nothing but the channels. -/
def Obligations.FrameActsChannelByChannel : Prop :=
  ∀ (w : Nat) (σ : State w), σ.frame = { σ with chan := σ.chan.map Channel.frame }

/-- 42_frame.md R162 (b): a channel's outputs and evolved histories are a function of its own coefficients,
histories and input, and of nothing else: equal ones in any two machines and any two channels give equal
results. -/
def Obligations.ChannelsAreIndependent : Prop :=
  ∀ (w : Nat) (σ τ : State w) (c d : Fin 8), σ.chan[c].coef = τ.chan[d].coef →
    σ.chan[c].hist = τ.chan[d].hist →
    σ.chan[c].inbuf = τ.chan[d].inbuf →
    σ.frame.chan[c].outbuf = τ.frame.chan[d].outbuf ∧ σ.frame.chan[c].hist = τ.frame.chan[d].hist

/-- 42_frame.md R162 (a): an all-zero frame into a channel of zero history gives an all-zero output frame and
leaves the histories zero, with any coefficients. -/
def Obligations.ZeroInputStaysZero : Prop :=
  ∀ (w : Nat) (σ : State w) (c : Fin 8), (∀ s j, σ.histAt c s j = 0) → (∀ n, σ.inbufAt c n = 0) →
    (∀ n, σ.frame.outbufAt c n = 0) ∧ ∀ s j, σ.frame.histAt c s j = 0

/-- 42_frame.md R151, R153, R164: the frame boundary has no effect on the data. Any number of consecutive
frames of one channel gives the outputs and the histories of one cascade applied to all their samples in
order. -/
def Obligations.StreamHasNoFrameBoundary : Prop :=
  ∀ (w : Nat) (ch : Channel w) (bs : List (Vector (BitVec w) 32)),
    ((Channel.frames bs ch).1, (Channel.frames bs ch).2.hist)
      = filterStream ch.coef ch.hist (bs.flatMap fun b => b.toList)

/-! ### The lanes -/

/-- 42_frame.md R155: what `LaneStep(c)` reads and writes, when it is enabled, and that it does nothing when it
is not. -/
def Obligations.LaneStepIsOneEvaluation : Prop :=
  ∀ (w : Nat) (σ : State w) (c : Fin 8),
    (¬(σ.busy = true ∧ (σ.posAt c).n.val ≤ 31) → σ.laneStep c = σ)
      ∧ ∀ h : (σ.posAt c).n.val < 32, σ.busy = true →
        ∀ x s r, s = (σ.posAt c).s → x = (if s = 0 then σ.inbufAt c ⟨_, h⟩ else σ.xAt c) →
          r = biquad σ.chan[c].coef[s] (σ.histPair c s) x →
          (σ.laneStep c).xAt c = r.y ∧ (σ.laneStep c).histPair c s = r.hist
            ∧ (s = 7 → (σ.laneStep c).outbufAt c ⟨_, h⟩ = r.y
                ∧ ((σ.laneStep c).posAt c).n.val = (σ.posAt c).n.val + 1
                ∧ ((σ.laneStep c).posAt c).s = 0)
            ∧ (s ≠ 7 → ((σ.laneStep c).posAt c).n = (σ.posAt c).n
                ∧ ((σ.laneStep c).posAt c).s.val = s.val + 1)
            ∧ (∀ a : Addr, a.toNat ≠ 0x200 + c.val * 16 + s.val * 2 →
                a.toNat ≠ 0x200 + c.val * 16 + s.val * 2 + 1 →
                (s = 7 → a.toNat ≠ 0x400 + c.val * 32 + (σ.posAt c).n.val) →
                (σ.laneStep c).peek a = σ.peek a)
            ∧ (∀ d, d ≠ c → (σ.laneStep c).xAt d = σ.xAt d ∧ (σ.laneStep c).posAt d = σ.posAt d)
            ∧ sameRun σ (σ.laneStep c) ∧ (σ.laneStep c).errcode = σ.errcode
            ∧ (σ.laneStep c).reply = σ.reply ∧ sameWorld σ (σ.laneStep c)

/-- 42_frame.md R156, R157 (1): steps of two lanes commute. -/
def Obligations.LaneStepsCommute : Prop :=
  ∀ (w : Nat) (σ : State w) (c d : Fin 8), (σ.laneStep c).laneStep d = (σ.laneStep d).laneStep c

/-- 42_frame.md R157, 60_exceptions.md R218: schedule independence. Whatever the interleaving of the lanes'
turns, and whatever transactions the host issues between them, once every lane has had its 256 turns the
channels hold what the sequential reference leaves. -/
def Obligations.EveryScheduleGivesTheFrame : Prop :=
  ∀ (w : Nat) (σ : State w) (us rest : List (Turn w)), σ.busy = true →
    (∀ c, σ.posAt c = { n := 0, s := 0 }) →
    σ.agenda = us ++ rest → (∀ u ∈ us, midRun u = true) → (∀ c, 256 ≤ us.count (.lane c)) →
    ∃ τ, (machineAt w).run us.length σ = .next τ ∧ τ.chan = σ.frameResult ∧ τ.busy = true
      ∧ τ.agenda = rest

/-- 44_commands.md R192, R193 with 42_frame.md R150, R157: START on an idle engine, any schedule in which every
lane gets its turns, and the completion step: `BUSY` has fallen, `DONE` has risen, and the channels hold what FRAME
makes of what they held at START. -/
def Obligations.StartToCompletionRunsTheFrame : Prop :=
  ∀ w : Nat, 16 ≤ w → ∀ (σ : State w) (us rest : List (Turn w)), σ.busy = false →
    σ.agenda = .host (encode .start) :: (us ++ .complete :: rest) → (∀ u ∈ us, midRun u = true) →
    (∀ c, 256 ≤ us.count (.lane c)) →
    ∃ τ, (machineAt w).run (us.length + 2) σ = .next τ ∧ τ.busy = false ∧ τ.done = true
      ∧ τ.chan = σ.frameResult ∧ τ.agenda = rest

/-- 44_commands.md R193: the completion step is enabled exactly when `BUSY = 1` and every lane has finished, and
then clears `BUSY` and sets `DONE` and does nothing else. -/
def Obligations.CompletionIsEnabledExactlyAtTheEnd : Prop :=
  ∀ (w : Nat) (σ : State w),
    ((σ.busy = true ∧ ∀ c, σ.posAt c = { n := 32, s := 0 }) →
        σ.complete = { σ with busy := false, done := true })
      ∧ (¬(σ.busy = true ∧ ∀ c, σ.posAt c = { n := 32, s := 0 }) → σ.complete = σ)

/-- 42_frame.md R159: a frame run is finite. Left alone, and whatever lanes the free choice picks (log entry 5),
the engine takes the lane steps that are left, at most 2048, being busy all the while, and then the completion
step. -/
def Obligations.RunEndsByItself : Prop :=
  ∀ (w : Nat) (σ : State w), σ.Inv → σ.busy = true → σ.agenda = [] →
    σ.stepsLeft ≤ 2048
      ∧ (∀ k, k ≤ σ.stepsLeft → ∃ τ, (machineAt w).run k σ = .next τ ∧ τ.busy = true)
      ∧ ∃ τ, (machineAt w).run (σ.stepsLeft + 1) σ = .next τ ∧ τ.busy = false ∧ τ.done = true

/-- 42_frame.md R150, R157, R159: the run the engine makes alone from START's positions, for every free choice of
lanes, leaves what the sequential reference leaves. -/
def Obligations.FreeChoiceGivesTheFrame : Prop :=
  ∀ (w : Nat) (σ : State w), σ.busy = true → (∀ c, σ.posAt c = { n := 0, s := 0 }) → σ.agenda = [] →
    ∃ τ, (machineAt w).run 2049 σ = .next τ ∧ τ.chan = σ.frameResult ∧ τ.busy = false ∧ τ.done = true
      ∧ τ.errcode = σ.errcode ∧ τ.reply = σ.reply

/-- 30_encoding.md R99: WAIT terminates because a frame run is finite. However the engine's moves fall between the
polls (`gaps`), and, for RUN, between START and the first poll (`first`), it ends as soon as they may amount to 2049,
the engine then being idle; with `first = 2049` and no gaps no poll sees `BUSY`. RUN leaves what the sequential
reference leaves. (That the moves of an engine left alone are counted so rests on log entries 5 and 20.) -/
def Obligations.WaitTerminates : Prop :=
  ∀ w : Nat, 16 ≤ w → ∀ σ : State w, σ.agenda = [] →
    (∀ gaps : List Nat, σ.Inv → 2049 ≤ gaps.sum →
      ∃ τ, waitIdle gaps σ = some τ ∧ τ.busy = false ∧ τ.sawBusy = false ∧ (σ.busy = true → τ.done = true))
    ∧ ∀ (first : Nat) (gaps : List Nat), σ.busy = false → 2049 ≤ first + gaps.sum →
      ∃ τ, runFrame first gaps σ = some τ ∧ τ.busy = false ∧ τ.done = true ∧ τ.sawBusy = false
        ∧ τ.chan = σ.frameResult

/-! ### Reset and the whole machine -/

/-- 10_state.md R36: what reset leaves, where the spec gives a value, and that nothing then happens by itself. -/
def Obligations.ResetLeavesTheSpecsValues : Prop :=
  (∀ c s j, State.reset.histAt c s j = 0) ∧ State.reset.busy = false ∧ State.reset.done = false
    ∧ State.reset.errcode = 0 ∧ step State.reset = .next State.reset

/-- 70_reset_and_hazards.md R240, R241: the reset event, idle or busy, zeroes the histories and the status
fields; a run in progress is abandoned, no lane step and no completion step of it being taken afterwards. -/
def Obligations.ResetEventAbandonsTheRun : Prop :=
  ∀ (w : Nat) (σ : State w), ∃ τ, takeTurn .reset σ = .next τ ∧ τ.busy = false ∧ τ.done = false ∧ τ.errcode = 0
    ∧ (∀ c s j, τ.histAt c s j = 0) ∧ (∀ c, τ.laneStep c = τ) ∧ τ.complete = τ ∧ τ.runAlone = τ

/-- The invariant holds right after reset. -/
def Obligations.ResetMeetsTheInvariant : Prop := State.reset.Inv

/-- 10_state.md R29, R32, R35: every step keeps the invariant: `BUSY` and `DONE` never both 1, no code above 4, no
position past `(32, 0)`, and every lane at `(32, 0)` once a run has completed; at the default width, and at every
width. -/
def Obligations.EveryStepKeepsTheInvariant : Prop :=
  (∀ σ τ : State, σ.Inv → step σ = .next τ → τ.Inv)
    ∧ ∀ (w : Nat) (σ τ : State w), σ.Inv → nextTurn σ = .next τ → τ.Inv

/-- A step whose turn is a host transaction runs the instruction it decodes to, on the state with that turn
taken off the agenda and nothing else changed; so does the step after an instruction is placed. At every width
the machine runs `perform` of it, which at the default width is `exec`. -/
def Obligations.StepRunsTheDecodedInstruction : Prop :=
  (∀ (σ : State) (t : Transaction) (rest : List Turn) (i : Instr), σ.agenda = .host t :: rest →
      decode t = .ok i → step σ = exec i { σ with agenda := rest })
    ∧ (∀ (σ : State) (nbits w : Nat) (i : Instr), decodeTableWord nbits w = some i →
      step (σ.withFetchWord nbits w) = exec i σ)
    ∧ (∀ (w : Nat) (σ : State w) (t : Transaction w) (rest : List (Turn w)) (i : Instr w),
      σ.agenda = .host t :: rest → decode t = .ok i →
        (machineAt w).step σ = perform i { σ with agenda := rest })
    ∧ ∀ (i : Instr) (σ : State), exec i σ = perform i σ

/-- 70_reset_and_hazards.md R254: polling is race-free. An accepted START leaves `BUSY = 1, DONE = 0`, and from a
state in which exactly one of the two is 1 every step but a reset leads to such a state. -/
def Obligations.PollingIsRaceFree : Prop :=
  (∀ σ : State, σ.busy = false → ∃ τ, exec .start σ = .next τ ∧ τ.busy = true ∧ τ.done = false)
    ∧ ∀ (w : Nat) (σ τ : State w), σ.busy ≠ σ.done → (∀ rest, σ.agenda ≠ .reset :: rest) →
      nextTurn σ = .next τ →
      τ.busy ≠ τ.done

/-- 60_exceptions.md R221: idle is entered by reset and by frame completion, busy by an accepted START; there is
no other transition. -/
def Obligations.OnlyStartCompletionAndResetSwitch : Prop :=
  ∀ (w : Nat) (σ τ : State w), nextTurn σ = .next τ →
    (σ.busy = false → τ.busy = true →
        ∃ t rest, σ.agenda = .host t :: rest ∧ decode t = .ok .start)
      ∧ (σ.busy = true → τ.busy = false →
        (∃ rest, σ.agenda = .reset :: rest)
          ∨ (τ.done = true ∧ ∀ c, σ.posAt c = { n := 32, s := 0 }))

/-- 10_state.md R21, R26: a coefficient register changes only by an accepted WRCOEF that names it, and an input
word only by an accepted WRIN that names it, while idle, or by a reset; the engine writes neither. -/
def Obligations.OnlyTheHostWritesCoefAndInbuf : Prop :=
  ∀ (w : Nat) (σ τ : State w), nextTurn σ = .next τ →
    (∀ c s k, τ.coefAt c s k ≠ σ.coefAt c s k →
        (∃ rest, σ.agenda = .reset :: rest)
          ∨ (σ.busy = false ∧ ∃ t rest k' v, σ.agenda = .host t :: rest
              ∧ decode t = .ok (.wrcoef c s k' v) ∧ k'.val = k.val ∧ τ.coefAt c s k = v))
      ∧ ∀ c n, τ.inbufAt c n ≠ σ.inbufAt c n →
        (∃ rest, σ.agenda = .reset :: rest)
          ∨ (σ.busy = false ∧ ∃ t rest v, σ.agenda = .host t :: rest
              ∧ decode t = .ok (.wrin c n v) ∧ τ.inbufAt c n = v)

/-- 10_state.md R23, R27: exactly three things write a history register, a BIQUAD of that very stage, an INIT
command that names it, its channel or all, and reset; an output word is written by the lane of its channel
finishing that very sample, and by nothing a host can issue. -/
def Obligations.OnlyTheEngineWritesHistAndOutbuf : Prop :=
  ∀ (w : Nat) (σ τ : State w), nextTurn σ = .next τ →
    (∀ c s, τ.histPair c s ≠ σ.histPair c s →
        (∃ rest, σ.agenda = .reset :: rest)
          ∨ (σ.busy = true ∧ (σ.posAt c).s = s ∧ (σ.posAt c).n.val ≤ 31
              ∧ τ.posAt c ≠ σ.posAt c)
          ∨ (σ.busy = false ∧ τ.histPair c s = { s1 := 0, s2 := 0 } ∧ ∃ t rest,
              σ.agenda = .host t :: rest
              ∧ (decode t = .ok (.inits c s) ∨ decode t = .ok (.initc c) ∨ decode t = .ok .inita)))
      ∧ ∀ c n, τ.outbufAt c n ≠ σ.outbufAt c n →
        (∃ rest, σ.agenda = .reset :: rest)
          ∨ (σ.busy = true ∧ (σ.posAt c).n.val = n.val ∧ (σ.posAt c).s = 7
              ∧ τ.posAt c ≠ σ.posAt c)
end

