-- ==== Sys2Proof/Laws/Decode.lean ====
section
/-! SUPPORT. What the opcode map's masks say as bit slices (30_encoding.md R92, R95), and the direction and
address of an encoded transaction. -/

namespace Sys2Proof

variable {w : Nat}

theorem slice_of_shift (v : BitVec w) (k : Nat) : (v >>> k).toNat = v.toNat / 2 ^ k := by
  simp [Nat.shiftRight_eq_div_pow]

/-- A mask of all the bits from `k` up keeps exactly the quotient by `2 ^ k`. -/
theorem and_high_bits (v : BitVec w) (k : Nat) :
    v &&& (BitVec.allOnes w <<< k) = (v >>> k) <<< k := by
  ext i hi
  simp only [BitVec.getElem_and, BitVec.getElem_shiftLeft, BitVec.getElem_allOnes]
  by_cases h : i < k
  · simp [h]
  · simp [h, Nat.add_sub_cancel' (Nat.le_of_not_lt h), BitVec.getLsbD_eq_getElem hi]

/-- A row whose mask is the bits from `k` up selects the headers whose quotient by `2 ^ k` is the row's. -/
theorem high_mask_iff (v : BitVec w) (k q : Nat) (hq : q * 2 ^ k < 2 ^ w) :
    v &&& (BitVec.allOnes w <<< k) = BitVec.ofNat w (q * 2 ^ k) ↔ v.toNat / 2 ^ k = q := by
  have hpos : 0 < 2 ^ k := Nat.two_pow_pos k
  have hle : v.toNat / 2 ^ k * 2 ^ k < 2 ^ w :=
    Nat.lt_of_le_of_lt (Nat.div_mul_le_self _ _) v.isLt
  have hlt : ((v >>> k) <<< k).toNat = v.toNat / 2 ^ k * 2 ^ k := by
    rw [BitVec.toNat_shiftLeft, slice_of_shift, Nat.shiftLeft_eq, Nat.mod_eq_of_lt hle]
  rw [and_high_bits, ← BitVec.toNat_inj, hlt, BitVec.toNat_ofNat, Nat.mod_eq_of_lt hq]
  exact ⟨fun h => Nat.eq_of_mul_eq_mul_right hpos h, fun h => by rw [h]⟩

/-! ### The header masks of the map -/

theorem mask_FE00 (h : Header) (q : Nat) (hq : q < 128) :
    h &&& 0xFE00 = BitVec.ofNat 16 (q * 512) ↔ h.toNat / 512 = q :=
  high_mask_iff h 9 q (by omega)

theorem mask_FF80 (h : Header) (q : Nat) (hq : q < 512) :
    h &&& 0xFF80 = BitVec.ofNat 16 (q * 128) ↔ h.toNat / 128 = q :=
  high_mask_iff h 7 q (by omega)

theorem mask_FF00 (h : Header) (q : Nat) (hq : q < 256) :
    h &&& 0xFF00 = BitVec.ofNat 16 (q * 256) ↔ h.toNat / 256 = q :=
  high_mask_iff h 8 q (by omega)

theorem mask_FFFF (h p : Header) : h &&& 0xFFFF = p ↔ h = p := by
  have : h &&& 0xFFFF = h := by
    have e : (0xFFFF : Header) = BitVec.allOnes 16 := by decide
    rw [e, BitVec.and_allOnes]
  rw [this]

/-- The header of every row has the bits `[14:12]` zero (30_encoding.md R91), and no row asks for a header bit
outside its mask. -/
theorem rows_headers : ∀ r ∈ opcodeRows (w := w),
    (r.mask &&& 0x7000 = 0x7000 ∧ r.pat &&& 0x7000 = 0) ∧ r.pat &&& r.mask = r.pat := by
  simp only [opcodeRows, accessRows, commandRows, List.cons_append, List.nil_append, List.forall_mem_cons,
    List.not_mem_nil, false_imp_iff, implies_true, and_true]
  decide

/-! ### The data words of the commands, at every width of at least 16 bits -/

/-- A number below `2 ^ 16` is a word at every admitted width (00_scope.md R7). -/
theorem ofNat_toNat_of_lt (hw : 16 ≤ w) {n : Nat} (h : n < 2 ^ 16) : (BitVec.ofNat w n).toNat = n := by
  rw [BitVec.toNat_ofNat]
  exact Nat.mod_eq_of_lt (Nat.lt_of_lt_of_le h (Nat.pow_le_pow_right (by decide) hw))

/-- A command word matches a row exactly if its low 16 bits do. -/
theorem commandMatches_ofNat (hw : 16 ≤ w) {n : Nat} (h : n < 2 ^ 16) (m p : BitVec 16) :
    commandMatches (BitVec.ofNat w n) m p = (BitVec.ofNat 16 n &&& m == p) := by
  unfold commandMatches
  rw [ofNat_toNat_of_lt hw h, Nat.div_eq_of_lt h]
  rfl

/-- The bits `[w-1:10]` of a word of at least 16 bits are its quotient by `2 ^ 10`. -/
theorem slice_high (hw : 16 ≤ w) (d : Word w) : slice d (w - 1) 10 = d.toNat / 2 ^ 10 := by
  unfold slice
  apply Nat.mod_eq_of_lt
  rw [Nat.div_lt_iff_lt_mul (by decide), ← Nat.pow_add]
  exact Nat.lt_of_lt_of_le d.isLt (Nat.pow_le_pow_right (by decide) (by omega))

/-! ### The two forms of a transaction -/

theorem wr_header_toNat {a : Nat} (h : a < 0x1000) (v : Word w) :
    (wr a v).header.toNat = 0x8000 + a := by
  simp [wr]; omega

theorem rd_header_toNat {a : Nat} (h : a < 0x1000) : (rd a : Transaction w).header.toNat = a := by
  simp [rd]; omega

theorem wr_isWrite {a : Nat} (h : a < 0x1000) (v : Word w) : (wr a v).isWrite = true := by
  simp only [Transaction.isWrite, slice, wr_header_toNat h, beq_iff_eq]; omega

theorem rd_isWrite {a : Nat} (h : a < 0x1000) : (rd a : Transaction w).isWrite = false := by
  simp only [Transaction.isWrite, slice, rd_header_toNat h, beq_eq_false_iff_ne, ne_eq]; omega

theorem wr_addr {a : Nat} (h : a < 0x1000) (v : Word w) : (wr a v).addr = a := by
  simp only [Transaction.addr, slice, wr_header_toNat h]; omega

theorem rd_addr {a : Nat} (h : a < 0x1000) : (rd a : Transaction w).addr = a := by
  simp only [Transaction.addr, slice, rd_header_toNat h]; omega

end Sys2Proof
end

