-- ==== Sys2Proof/Laws/State.lean ====
section
/-! SUPPORT. Beside State: one lemma per field per update of the state, and what each update leaves at each
index. Later proofs use these and unfold no record update. -/

namespace Sys2Proof.Machine

variable {w : Nat}

variable (σ : State w)

/-! ### Vectors by index -/

theorem set_get {α : Type} {n : Nat} (v : Vector α n) (i j : Fin n) (a : α) :
    (v.set i.val a)[j.val] = if i = j then a else v[j.val] := by
  simp [Vector.getElem_set, Fin.ext_iff]

theorem vec_ext {α : Type} {n : Nat} {u v : Vector α n} (h : ∀ i : Fin n, u[i.val] = v[i.val]) : u = v :=
  Vector.ext fun i hi => h ⟨i, hi⟩

/-! ### One lemma per field per update -/

@[simp] theorem modChan_busy (c : Fin 8) (f : Channel w → Channel w) : (σ.modChan c f).busy = σ.busy := rfl
@[simp] theorem modChan_done (c : Fin 8) (f : Channel w → Channel w) : (σ.modChan c f).done = σ.done := rfl
@[simp] theorem modChan_errcode (c : Fin 8) (f : Channel w → Channel w) : (σ.modChan c f).errcode = σ.errcode := rfl
@[simp] theorem modChan_reply (c : Fin 8) (f : Channel w → Channel w) : (σ.modChan c f).reply = σ.reply := rfl
@[simp] theorem modChan_agenda (c : Fin 8) (f : Channel w → Channel w) : (σ.modChan c f).agenda = σ.agenda := rfl
@[simp] theorem modChan_turn (c : Fin 8) (f : Channel w → Channel w) : (σ.modChan c f).turn = σ.turn := rfl
@[simp] theorem modChan_epoch (c : Fin 8) (f : Channel w → Channel w) : (σ.modChan c f).epoch = σ.epoch := rfl

@[simp] theorem setCoef_busy (c s : Fin 8) (k : Fin 5) (v : Word w) : (σ.setCoef c s k v).busy = σ.busy := rfl
@[simp] theorem setCoef_done (c s : Fin 8) (k : Fin 5) (v : Word w) : (σ.setCoef c s k v).done = σ.done := rfl
@[simp] theorem setCoef_errcode (c s : Fin 8) (k : Fin 5) (v : Word w) : (σ.setCoef c s k v).errcode = σ.errcode := rfl
@[simp] theorem setCoef_reply (c s : Fin 8) (k : Fin 5) (v : Word w) : (σ.setCoef c s k v).reply = σ.reply := rfl
@[simp] theorem setCoef_agenda (c s : Fin 8) (k : Fin 5) (v : Word w) : (σ.setCoef c s k v).agenda = σ.agenda := rfl
@[simp] theorem setCoef_turn (c s : Fin 8) (k : Fin 5) (v : Word w) : (σ.setCoef c s k v).turn = σ.turn := rfl
@[simp] theorem setCoef_epoch (c s : Fin 8) (k : Fin 5) (v : Word w) : (σ.setCoef c s k v).epoch = σ.epoch := rfl

@[simp] theorem setInbuf_busy (c : Fin 8) (n : Fin 32) (v : Word w) : (σ.setInbuf c n v).busy = σ.busy := rfl
@[simp] theorem setInbuf_done (c : Fin 8) (n : Fin 32) (v : Word w) : (σ.setInbuf c n v).done = σ.done := rfl
@[simp] theorem setInbuf_errcode (c : Fin 8) (n : Fin 32) (v : Word w) : (σ.setInbuf c n v).errcode = σ.errcode := rfl
@[simp] theorem setInbuf_reply (c : Fin 8) (n : Fin 32) (v : Word w) : (σ.setInbuf c n v).reply = σ.reply := rfl
@[simp] theorem setInbuf_agenda (c : Fin 8) (n : Fin 32) (v : Word w) : (σ.setInbuf c n v).agenda = σ.agenda := rfl
@[simp] theorem setInbuf_turn (c : Fin 8) (n : Fin 32) (v : Word w) : (σ.setInbuf c n v).turn = σ.turn := rfl
@[simp] theorem setInbuf_epoch (c : Fin 8) (n : Fin 32) (v : Word w) : (σ.setInbuf c n v).epoch = σ.epoch := rfl

@[simp] theorem zeroStage_busy (c s : Fin 8) : (σ.zeroStage c s).busy = σ.busy := rfl
@[simp] theorem zeroStage_done (c s : Fin 8) : (σ.zeroStage c s).done = σ.done := rfl
@[simp] theorem zeroStage_errcode (c s : Fin 8) : (σ.zeroStage c s).errcode = σ.errcode := rfl
@[simp] theorem zeroStage_reply (c s : Fin 8) : (σ.zeroStage c s).reply = σ.reply := rfl
@[simp] theorem zeroStage_agenda (c s : Fin 8) : (σ.zeroStage c s).agenda = σ.agenda := rfl
@[simp] theorem zeroStage_turn (c s : Fin 8) : (σ.zeroStage c s).turn = σ.turn := rfl
@[simp] theorem zeroStage_epoch (c s : Fin 8) : (σ.zeroStage c s).epoch = σ.epoch := rfl

@[simp] theorem zeroChannel_busy (c : Fin 8) : (σ.zeroChannel c).busy = σ.busy := rfl
@[simp] theorem zeroChannel_done (c : Fin 8) : (σ.zeroChannel c).done = σ.done := rfl
@[simp] theorem zeroChannel_errcode (c : Fin 8) : (σ.zeroChannel c).errcode = σ.errcode := rfl
@[simp] theorem zeroChannel_reply (c : Fin 8) : (σ.zeroChannel c).reply = σ.reply := rfl
@[simp] theorem zeroChannel_agenda (c : Fin 8) : (σ.zeroChannel c).agenda = σ.agenda := rfl
@[simp] theorem zeroChannel_turn (c : Fin 8) : (σ.zeroChannel c).turn = σ.turn := rfl
@[simp] theorem zeroChannel_epoch (c : Fin 8) : (σ.zeroChannel c).epoch = σ.epoch := rfl

@[simp] theorem zeroAll_busy : (σ.zeroAll).busy = σ.busy := rfl
@[simp] theorem zeroAll_done : (σ.zeroAll).done = σ.done := rfl
@[simp] theorem zeroAll_errcode : (σ.zeroAll).errcode = σ.errcode := rfl
@[simp] theorem zeroAll_reply : (σ.zeroAll).reply = σ.reply := rfl
@[simp] theorem zeroAll_agenda : (σ.zeroAll).agenda = σ.agenda := rfl
@[simp] theorem zeroAll_turn : (σ.zeroAll).turn = σ.turn := rfl
@[simp] theorem zeroAll_epoch : (σ.zeroAll).epoch = σ.epoch := rfl

@[simp] theorem beginRun_busy : (σ.beginRun).busy = true := rfl
@[simp] theorem beginRun_done : (σ.beginRun).done = false := rfl
@[simp] theorem beginRun_errcode : (σ.beginRun).errcode = σ.errcode := rfl
@[simp] theorem beginRun_reply : (σ.beginRun).reply = σ.reply := rfl
@[simp] theorem beginRun_agenda : (σ.beginRun).agenda = σ.agenda := rfl
@[simp] theorem beginRun_turn : (σ.beginRun).turn = σ.turn := rfl
@[simp] theorem beginRun_epoch : (σ.beginRun).epoch = σ.epoch := rfl

@[simp] theorem endRun_chan : (σ.endRun).chan = σ.chan := rfl
@[simp] theorem endRun_busy : (σ.endRun).busy = false := rfl
@[simp] theorem endRun_done : (σ.endRun).done = true := rfl
@[simp] theorem endRun_errcode : (σ.endRun).errcode = σ.errcode := rfl
@[simp] theorem endRun_reply : (σ.endRun).reply = σ.reply := rfl
@[simp] theorem endRun_agenda : (σ.endRun).agenda = σ.agenda := rfl
@[simp] theorem endRun_turn : (σ.endRun).turn = σ.turn := rfl
@[simp] theorem endRun_epoch : (σ.endRun).epoch = σ.epoch := rfl

@[simp] theorem answer_chan (v : Word w) : (σ.answer v).chan = σ.chan := rfl
@[simp] theorem answer_busy (v : Word w) : (σ.answer v).busy = σ.busy := rfl
@[simp] theorem answer_done (v : Word w) : (σ.answer v).done = σ.done := rfl
@[simp] theorem answer_errcode (v : Word w) : (σ.answer v).errcode = σ.errcode := rfl
@[simp] theorem answer_reply (v : Word w) : (σ.answer v).reply = some v := rfl
@[simp] theorem answer_agenda (v : Word w) : (σ.answer v).agenda = σ.agenda := rfl
@[simp] theorem answer_turn (v : Word w) : (σ.answer v).turn = σ.turn := rfl
@[simp] theorem answer_epoch (v : Word w) : (σ.answer v).epoch = σ.epoch := rfl

@[simp] theorem clearError_chan : (σ.clearError).chan = σ.chan := rfl
@[simp] theorem clearError_busy : (σ.clearError).busy = σ.busy := rfl
@[simp] theorem clearError_done : (σ.clearError).done = σ.done := rfl
@[simp] theorem clearError_errcode : (σ.clearError).errcode = 0 := rfl
@[simp] theorem clearError_reply : (σ.clearError).reply = σ.reply := rfl
@[simp] theorem clearError_agenda : (σ.clearError).agenda = σ.agenda := rfl
@[simp] theorem clearError_turn : (σ.clearError).turn = σ.turn := rfl
@[simp] theorem clearError_epoch : (σ.clearError).epoch = σ.epoch := rfl

@[simp] theorem biquad_busy (c s : Fin 8) : (σ.biquad c s).busy = σ.busy := rfl
@[simp] theorem biquad_done (c s : Fin 8) : (σ.biquad c s).done = σ.done := rfl
@[simp] theorem biquad_errcode (c s : Fin 8) : (σ.biquad c s).errcode = σ.errcode := rfl
@[simp] theorem biquad_reply (c s : Fin 8) : (σ.biquad c s).reply = σ.reply := rfl
@[simp] theorem biquad_agenda (c s : Fin 8) : (σ.biquad c s).agenda = σ.agenda := rfl
@[simp] theorem biquad_turn (c s : Fin 8) : (σ.biquad c s).turn = σ.turn := rfl
@[simp] theorem biquad_epoch (c s : Fin 8) : (σ.biquad c s).epoch = σ.epoch := rfl

@[simp] theorem cascade_busy (c : Fin 8) (n : Fin 32) : (σ.cascade c n).busy = σ.busy := rfl
@[simp] theorem cascade_done (c : Fin 8) (n : Fin 32) : (σ.cascade c n).done = σ.done := rfl
@[simp] theorem cascade_errcode (c : Fin 8) (n : Fin 32) : (σ.cascade c n).errcode = σ.errcode := rfl
@[simp] theorem cascade_reply (c : Fin 8) (n : Fin 32) : (σ.cascade c n).reply = σ.reply := rfl
@[simp] theorem cascade_agenda (c : Fin 8) (n : Fin 32) : (σ.cascade c n).agenda = σ.agenda := rfl
@[simp] theorem cascade_turn (c : Fin 8) (n : Fin 32) : (σ.cascade c n).turn = σ.turn := rfl
@[simp] theorem cascade_epoch (c : Fin 8) (n : Fin 32) : (σ.cascade c n).epoch = σ.epoch := rfl

@[simp] theorem resetEvent_busy : (σ.resetEvent).busy = false := rfl
@[simp] theorem resetEvent_done : (σ.resetEvent).done = false := rfl
@[simp] theorem resetEvent_errcode : (σ.resetEvent).errcode = 0 := rfl
@[simp] theorem resetEvent_reply : (σ.resetEvent).reply = σ.reply := rfl
@[simp] theorem resetEvent_agenda : (σ.resetEvent).agenda = σ.agenda := rfl
@[simp] theorem resetEvent_turn : (σ.resetEvent).turn = σ.turn := rfl
@[simp] theorem resetEvent_epoch : (σ.resetEvent).epoch = σ.epoch + 1 := rfl

/-! ### Raising an error -/

@[simp] theorem raise_chan (e : Err) : (σ.raise e).chan = σ.chan := by
  unfold State.raise; split <;> rfl

@[simp] theorem raise_busy (e : Err) : (σ.raise e).busy = σ.busy := by
  unfold State.raise; split <;> rfl

@[simp] theorem raise_done (e : Err) : (σ.raise e).done = σ.done := by
  unfold State.raise; split <;> rfl

@[simp] theorem raise_reply (e : Err) : (σ.raise e).reply = σ.reply := by
  unfold State.raise; split <;> rfl

@[simp] theorem raise_agenda (e : Err) : (σ.raise e).agenda = σ.agenda := by
  unfold State.raise; split <;> rfl

@[simp] theorem raise_turn (e : Err) : (σ.raise e).turn = σ.turn := by
  unfold State.raise; split <;> rfl

@[simp] theorem raise_epoch (e : Err) : (σ.raise e).epoch = σ.epoch := by
  unfold State.raise; split <;> rfl

theorem raise_errcode (e : Err) :
    (σ.raise e).errcode = if σ.errcode = 0 then e.code else σ.errcode := by
  unfold State.raise; split <;> rfl

@[simp] theorem raiseRead_chan (e : Err) : (σ.raiseRead e).chan = σ.chan := by
  simp [State.raiseRead]

@[simp] theorem raiseRead_busy (e : Err) : (σ.raiseRead e).busy = σ.busy := by
  simp [State.raiseRead]

@[simp] theorem raiseRead_done (e : Err) : (σ.raiseRead e).done = σ.done := by
  simp [State.raiseRead]

@[simp] theorem raiseRead_agenda (e : Err) : (σ.raiseRead e).agenda = σ.agenda := by
  simp [State.raiseRead]

@[simp] theorem raiseRead_turn (e : Err) : (σ.raiseRead e).turn = σ.turn := by
  simp [State.raiseRead]

@[simp] theorem raiseRead_epoch (e : Err) : (σ.raiseRead e).epoch = σ.epoch := by
  simp [State.raiseRead]

@[simp] theorem raiseRead_reply (e : Err) : (σ.raiseRead e).reply = some 0 := rfl

theorem raiseRead_errcode (e : Err) :
    (σ.raiseRead e).errcode = if σ.errcode = 0 then e.code else σ.errcode := by
  simp [State.raiseRead, raise_errcode]

/-! ### The channels after each update -/

theorem modChan_chan (c d : Fin 8) (f : Channel w → Channel w) :
    (σ.modChan c f).chan[d.val] = if c = d then f σ.chan[c.val] else σ.chan[d.val] :=
  set_get σ.chan c d (f σ.chan[c.val])

@[simp] theorem modChan_chan_same (c : Fin 8) (f : Channel w → Channel w) :
    (σ.modChan c f).chan[c.val] = f σ.chan[c.val] := by
  rw [modChan_chan, if_pos rfl]

theorem modChan_chan_other {c d : Fin 8} (h : c ≠ d) (f : Channel w → Channel w) :
    (σ.modChan c f).chan[d.val] = σ.chan[d.val] := by
  rw [modChan_chan, if_neg h]

@[simp] theorem zeroAll_chan (d : Fin 8) :
    σ.zeroAll.chan[d.val]
      = { σ.chan[d.val] with hist := Vector.replicate 8 (History.zero w) } := by
  simp [State.zeroAll]

@[simp] theorem beginRun_chan (d : Fin 8) :
    σ.beginRun.chan[d.val] = { σ.chan[d.val] with pos := Pos.first } := by
  simp [State.beginRun]

/-! ### What an update leaves at each index -/

@[simp] theorem coefSet_get_put {w : Nat} (q : CoefSet w) (k l : Fin 5) (v : BitVec w) :
    (q.put k v).get l = if k = l then v else q.get l := by
  fin_cases k <;> fin_cases l <;> rfl

@[simp] theorem history_zero_get (w : Nat) (j : Fin 2) : (History.zero w).get j = 0 := by
  fin_cases j <;> rfl

theorem setCoef_coefAt (c s c' s' : Fin 8) (k k' : Fin 5) (v : Word w) :
    (σ.setCoef c s k v).coefAt c' s' k'
      = if c = c' ∧ s = s' ∧ k = k' then v else σ.coefAt c' s' k' := by
  by_cases hc : c = c'
  · subst hc
    by_cases hs : s = s'
    · subst hs
      by_cases hk : k = k' <;> simp [State.coefAt, State.setCoef, hk]
    · simp [State.coefAt, State.setCoef, hs, set_get]
  · simp [State.coefAt, State.setCoef, modChan_chan_other _ hc, hc]

theorem setInbuf_inbufAt (c c' : Fin 8) (n n' : Fin 32) (v : Word w) :
    (σ.setInbuf c n v).inbufAt c' n' = if c = c' ∧ n = n' then v else σ.inbufAt c' n' := by
  by_cases hc : c = c'
  · subst hc
    by_cases hn : n = n' <;> simp [State.inbufAt, State.setInbuf, hn, set_get]
  · simp [State.inbufAt, State.setInbuf, modChan_chan_other _ hc, hc]

theorem zeroStage_histAt (c s c' s' : Fin 8) (j : Fin 2) :
    (σ.zeroStage c s).histAt c' s' j = if c = c' ∧ s = s' then 0 else σ.histAt c' s' j := by
  by_cases hc : c = c'
  · subst hc
    by_cases hs : s = s'
    · subst hs
      simp [State.histAt, State.histPair, State.zeroStage]
    · simp [State.histAt, State.histPair, State.zeroStage, hs, set_get]
  · simp [State.histAt, State.histPair, State.zeroStage, modChan_chan_other _ hc, hc]

theorem zeroChannel_histAt (c c' s : Fin 8) (j : Fin 2) :
    (σ.zeroChannel c).histAt c' s j = if c = c' then 0 else σ.histAt c' s j := by
  by_cases hc : c = c'
  · subst hc
    simp [State.histAt, State.histPair, State.zeroChannel]
  · simp [State.histAt, State.histPair, State.zeroChannel, modChan_chan_other _ hc, hc]

@[simp] theorem zeroAll_histAt (c s : Fin 8) (j : Fin 2) : σ.zeroAll.histAt c s j = 0 := by
  simp [State.histAt, State.histPair, State.zeroAll]

theorem zeroStage_histPair (c s d t : Fin 8) :
    (σ.zeroStage c s).histPair d t
      = if c = d ∧ s = t then History.zero w else σ.histPair d t := by
  by_cases hc : c = d
  · subst hc
    by_cases hs : s = t
    · subst hs; simp [State.histPair, State.zeroStage]
    · simp [State.histPair, State.zeroStage, hs, set_get]
  · simp [State.histPair, State.zeroStage, modChan_chan_other _ hc, hc]

theorem zeroChannel_histPair (c d t : Fin 8) :
    (σ.zeroChannel c).histPair d t = if c = d then History.zero w else σ.histPair d t := by
  by_cases hc : c = d
  · subst hc; simp [State.histPair, State.zeroChannel]
  · simp [State.histPair, State.zeroChannel, modChan_chan_other _ hc, hc]

@[simp] theorem zeroAll_histPair (d t : Fin 8) : σ.zeroAll.histPair d t = History.zero w := by
  simp [State.histPair, State.zeroAll]

@[simp] theorem beginRun_posAt (c : Fin 8) : σ.beginRun.posAt c = Pos.first := by
  simp [State.posAt, State.beginRun]

@[simp] theorem setCoef_histPair (c s : Fin 8) (l : Fin 5) (v : Word w) (d t : Fin 8) :
    (σ.setCoef c s l v).histPair d t = σ.histPair d t := by
  by_cases h : c = d
  · subst h; simp [State.histPair, State.setCoef]
  · simp [State.histPair, State.setCoef, modChan_chan_other _ h]

@[simp] theorem setCoef_histAt (c s : Fin 8) (l : Fin 5) (v : Word w) (d t : Fin 8) (j : Fin 2) :
    (σ.setCoef c s l v).histAt d t j = σ.histAt d t j := by
  by_cases h : c = d
  · subst h; simp [State.histAt, State.histPair, State.setCoef]
  · simp [State.histAt, State.histPair, State.setCoef, modChan_chan_other _ h]

@[simp] theorem setCoef_inbufAt (c s : Fin 8) (l : Fin 5) (v : Word w) (d : Fin 8) (m : Fin 32) :
    (σ.setCoef c s l v).inbufAt d m = σ.inbufAt d m := by
  by_cases h : c = d
  · subst h; simp [State.inbufAt, State.setCoef]
  · simp [State.inbufAt, State.setCoef, modChan_chan_other _ h]

@[simp] theorem setCoef_outbufAt (c s : Fin 8) (l : Fin 5) (v : Word w) (d : Fin 8) (m : Fin 32) :
    (σ.setCoef c s l v).outbufAt d m = σ.outbufAt d m := by
  by_cases h : c = d
  · subst h; simp [State.outbufAt, State.setCoef]
  · simp [State.outbufAt, State.setCoef, modChan_chan_other _ h]

@[simp] theorem setCoef_xAt (c s : Fin 8) (l : Fin 5) (v : Word w) (d : Fin 8) :
    (σ.setCoef c s l v).xAt d = σ.xAt d := by
  by_cases h : c = d
  · subst h; simp [State.xAt, State.setCoef]
  · simp [State.xAt, State.setCoef, modChan_chan_other _ h]

@[simp] theorem setCoef_posAt (c s : Fin 8) (l : Fin 5) (v : Word w) (d : Fin 8) :
    (σ.setCoef c s l v).posAt d = σ.posAt d := by
  by_cases h : c = d
  · subst h; simp [State.posAt, State.setCoef]
  · simp [State.posAt, State.setCoef, modChan_chan_other _ h]

@[simp] theorem setInbuf_coefAt (c : Fin 8) (n : Fin 32) (v : Word w) (d t : Fin 8) (k : Fin 5) :
    (σ.setInbuf c n v).coefAt d t k = σ.coefAt d t k := by
  by_cases h : c = d
  · subst h; simp [State.coefAt, State.setInbuf]
  · simp [State.coefAt, State.setInbuf, modChan_chan_other _ h]

@[simp] theorem setInbuf_histPair (c : Fin 8) (n : Fin 32) (v : Word w) (d t : Fin 8) :
    (σ.setInbuf c n v).histPair d t = σ.histPair d t := by
  by_cases h : c = d
  · subst h; simp [State.histPair, State.setInbuf]
  · simp [State.histPair, State.setInbuf, modChan_chan_other _ h]

@[simp] theorem setInbuf_histAt (c : Fin 8) (n : Fin 32) (v : Word w) (d t : Fin 8) (j : Fin 2) :
    (σ.setInbuf c n v).histAt d t j = σ.histAt d t j := by
  by_cases h : c = d
  · subst h; simp [State.histAt, State.histPair, State.setInbuf]
  · simp [State.histAt, State.histPair, State.setInbuf, modChan_chan_other _ h]

@[simp] theorem setInbuf_outbufAt (c : Fin 8) (n : Fin 32) (v : Word w) (d : Fin 8) (m : Fin 32) :
    (σ.setInbuf c n v).outbufAt d m = σ.outbufAt d m := by
  by_cases h : c = d
  · subst h; simp [State.outbufAt, State.setInbuf]
  · simp [State.outbufAt, State.setInbuf, modChan_chan_other _ h]

@[simp] theorem setInbuf_xAt (c : Fin 8) (n : Fin 32) (v : Word w) (d : Fin 8) :
    (σ.setInbuf c n v).xAt d = σ.xAt d := by
  by_cases h : c = d
  · subst h; simp [State.xAt, State.setInbuf]
  · simp [State.xAt, State.setInbuf, modChan_chan_other _ h]

@[simp] theorem setInbuf_posAt (c : Fin 8) (n : Fin 32) (v : Word w) (d : Fin 8) :
    (σ.setInbuf c n v).posAt d = σ.posAt d := by
  by_cases h : c = d
  · subst h; simp [State.posAt, State.setInbuf]
  · simp [State.posAt, State.setInbuf, modChan_chan_other _ h]

@[simp] theorem zeroStage_coefAt (c s : Fin 8) (d t : Fin 8) (k : Fin 5) :
    (σ.zeroStage c s).coefAt d t k = σ.coefAt d t k := by
  by_cases h : c = d
  · subst h; simp [State.coefAt, State.zeroStage]
  · simp [State.coefAt, State.zeroStage, modChan_chan_other _ h]

@[simp] theorem zeroStage_inbufAt (c s : Fin 8) (d : Fin 8) (m : Fin 32) :
    (σ.zeroStage c s).inbufAt d m = σ.inbufAt d m := by
  by_cases h : c = d
  · subst h; simp [State.inbufAt, State.zeroStage]
  · simp [State.inbufAt, State.zeroStage, modChan_chan_other _ h]

@[simp] theorem zeroStage_outbufAt (c s : Fin 8) (d : Fin 8) (m : Fin 32) :
    (σ.zeroStage c s).outbufAt d m = σ.outbufAt d m := by
  by_cases h : c = d
  · subst h; simp [State.outbufAt, State.zeroStage]
  · simp [State.outbufAt, State.zeroStage, modChan_chan_other _ h]

@[simp] theorem zeroStage_xAt (c s : Fin 8) (d : Fin 8) :
    (σ.zeroStage c s).xAt d = σ.xAt d := by
  by_cases h : c = d
  · subst h; simp [State.xAt, State.zeroStage]
  · simp [State.xAt, State.zeroStage, modChan_chan_other _ h]

@[simp] theorem zeroStage_posAt (c s : Fin 8) (d : Fin 8) :
    (σ.zeroStage c s).posAt d = σ.posAt d := by
  by_cases h : c = d
  · subst h; simp [State.posAt, State.zeroStage]
  · simp [State.posAt, State.zeroStage, modChan_chan_other _ h]

@[simp] theorem zeroChannel_coefAt (c : Fin 8) (d t : Fin 8) (k : Fin 5) :
    (σ.zeroChannel c).coefAt d t k = σ.coefAt d t k := by
  by_cases h : c = d
  · subst h; simp [State.coefAt, State.zeroChannel]
  · simp [State.coefAt, State.zeroChannel, modChan_chan_other _ h]

@[simp] theorem zeroChannel_inbufAt (c : Fin 8) (d : Fin 8) (m : Fin 32) :
    (σ.zeroChannel c).inbufAt d m = σ.inbufAt d m := by
  by_cases h : c = d
  · subst h; simp [State.inbufAt, State.zeroChannel]
  · simp [State.inbufAt, State.zeroChannel, modChan_chan_other _ h]

@[simp] theorem zeroChannel_outbufAt (c : Fin 8) (d : Fin 8) (m : Fin 32) :
    (σ.zeroChannel c).outbufAt d m = σ.outbufAt d m := by
  by_cases h : c = d
  · subst h; simp [State.outbufAt, State.zeroChannel]
  · simp [State.outbufAt, State.zeroChannel, modChan_chan_other _ h]

@[simp] theorem zeroChannel_xAt (c : Fin 8) (d : Fin 8) :
    (σ.zeroChannel c).xAt d = σ.xAt d := by
  by_cases h : c = d
  · subst h; simp [State.xAt, State.zeroChannel]
  · simp [State.xAt, State.zeroChannel, modChan_chan_other _ h]

@[simp] theorem zeroChannel_posAt (c : Fin 8) (d : Fin 8) :
    (σ.zeroChannel c).posAt d = σ.posAt d := by
  by_cases h : c = d
  · subst h; simp [State.posAt, State.zeroChannel]
  · simp [State.posAt, State.zeroChannel, modChan_chan_other _ h]

@[simp] theorem zeroAll_coefAt (d t : Fin 8) (k : Fin 5) :
    (σ.zeroAll).coefAt d t k = σ.coefAt d t k := by
  simp [State.coefAt, State.zeroAll]

@[simp] theorem zeroAll_inbufAt (d : Fin 8) (m : Fin 32) :
    (σ.zeroAll).inbufAt d m = σ.inbufAt d m := by
  simp [State.inbufAt, State.zeroAll]

@[simp] theorem zeroAll_outbufAt (d : Fin 8) (m : Fin 32) :
    (σ.zeroAll).outbufAt d m = σ.outbufAt d m := by
  simp [State.outbufAt, State.zeroAll]

@[simp] theorem zeroAll_xAt (d : Fin 8) :
    (σ.zeroAll).xAt d = σ.xAt d := by
  simp [State.xAt, State.zeroAll]

@[simp] theorem zeroAll_posAt (d : Fin 8) :
    (σ.zeroAll).posAt d = σ.posAt d := by
  simp [State.posAt, State.zeroAll]

@[simp] theorem beginRun_coefAt (d t : Fin 8) (k : Fin 5) :
    (σ.beginRun).coefAt d t k = σ.coefAt d t k := by
  simp [State.coefAt, State.beginRun]

@[simp] theorem beginRun_histPair (d t : Fin 8) :
    (σ.beginRun).histPair d t = σ.histPair d t := by
  simp [State.histPair, State.beginRun]

@[simp] theorem beginRun_histAt (d t : Fin 8) (j : Fin 2) :
    (σ.beginRun).histAt d t j = σ.histAt d t j := by
  simp [State.histAt, State.histPair, State.beginRun]

@[simp] theorem beginRun_inbufAt (d : Fin 8) (m : Fin 32) :
    (σ.beginRun).inbufAt d m = σ.inbufAt d m := by
  simp [State.inbufAt, State.beginRun]

@[simp] theorem beginRun_outbufAt (d : Fin 8) (m : Fin 32) :
    (σ.beginRun).outbufAt d m = σ.outbufAt d m := by
  simp [State.outbufAt, State.beginRun]

@[simp] theorem beginRun_xAt (d : Fin 8) :
    (σ.beginRun).xAt d = σ.xAt d := by
  simp [State.xAt, State.beginRun]

@[simp] theorem endRun_coefAt (d t : Fin 8) (k : Fin 5) :
    (σ.endRun).coefAt d t k = σ.coefAt d t k := rfl

@[simp] theorem endRun_histPair (d t : Fin 8) :
    (σ.endRun).histPair d t = σ.histPair d t := rfl

@[simp] theorem endRun_histAt (d t : Fin 8) (j : Fin 2) :
    (σ.endRun).histAt d t j = σ.histAt d t j := rfl

@[simp] theorem endRun_inbufAt (d : Fin 8) (m : Fin 32) :
    (σ.endRun).inbufAt d m = σ.inbufAt d m := rfl

@[simp] theorem endRun_outbufAt (d : Fin 8) (m : Fin 32) :
    (σ.endRun).outbufAt d m = σ.outbufAt d m := rfl

@[simp] theorem endRun_xAt (d : Fin 8) :
    (σ.endRun).xAt d = σ.xAt d := rfl

@[simp] theorem endRun_posAt (d : Fin 8) :
    (σ.endRun).posAt d = σ.posAt d := rfl

@[simp] theorem answer_coefAt (v : Word w) (d t : Fin 8) (k : Fin 5) :
    (σ.answer v).coefAt d t k = σ.coefAt d t k := rfl

@[simp] theorem answer_histPair (v : Word w) (d t : Fin 8) :
    (σ.answer v).histPair d t = σ.histPair d t := rfl

@[simp] theorem answer_histAt (v : Word w) (d t : Fin 8) (j : Fin 2) :
    (σ.answer v).histAt d t j = σ.histAt d t j := rfl

@[simp] theorem answer_inbufAt (v : Word w) (d : Fin 8) (m : Fin 32) :
    (σ.answer v).inbufAt d m = σ.inbufAt d m := rfl

@[simp] theorem answer_outbufAt (v : Word w) (d : Fin 8) (m : Fin 32) :
    (σ.answer v).outbufAt d m = σ.outbufAt d m := rfl

@[simp] theorem answer_xAt (v : Word w) (d : Fin 8) :
    (σ.answer v).xAt d = σ.xAt d := rfl

@[simp] theorem answer_posAt (v : Word w) (d : Fin 8) :
    (σ.answer v).posAt d = σ.posAt d := rfl

@[simp] theorem clearError_coefAt (d t : Fin 8) (k : Fin 5) :
    (σ.clearError).coefAt d t k = σ.coefAt d t k := rfl

@[simp] theorem clearError_histPair (d t : Fin 8) :
    (σ.clearError).histPair d t = σ.histPair d t := rfl

@[simp] theorem clearError_histAt (d t : Fin 8) (j : Fin 2) :
    (σ.clearError).histAt d t j = σ.histAt d t j := rfl

@[simp] theorem clearError_inbufAt (d : Fin 8) (m : Fin 32) :
    (σ.clearError).inbufAt d m = σ.inbufAt d m := rfl

@[simp] theorem clearError_outbufAt (d : Fin 8) (m : Fin 32) :
    (σ.clearError).outbufAt d m = σ.outbufAt d m := rfl

@[simp] theorem clearError_xAt (d : Fin 8) :
    (σ.clearError).xAt d = σ.xAt d := rfl

@[simp] theorem clearError_posAt (d : Fin 8) :
    (σ.clearError).posAt d = σ.posAt d := rfl

@[simp] theorem raise_coefAt (e : Err) (d t : Fin 8) (k : Fin 5) :
    (σ.raise e).coefAt d t k = σ.coefAt d t k := by
  simp [State.coefAt]

@[simp] theorem raise_histPair (e : Err) (d t : Fin 8) :
    (σ.raise e).histPair d t = σ.histPair d t := by
  simp [State.histPair]

@[simp] theorem raise_histAt (e : Err) (d t : Fin 8) (j : Fin 2) :
    (σ.raise e).histAt d t j = σ.histAt d t j := by
  simp [State.histAt, State.histPair]

@[simp] theorem raise_inbufAt (e : Err) (d : Fin 8) (m : Fin 32) :
    (σ.raise e).inbufAt d m = σ.inbufAt d m := by
  simp [State.inbufAt]

@[simp] theorem raise_outbufAt (e : Err) (d : Fin 8) (m : Fin 32) :
    (σ.raise e).outbufAt d m = σ.outbufAt d m := by
  simp [State.outbufAt]

@[simp] theorem raise_xAt (e : Err) (d : Fin 8) :
    (σ.raise e).xAt d = σ.xAt d := by
  simp [State.xAt]

@[simp] theorem raise_posAt (e : Err) (d : Fin 8) :
    (σ.raise e).posAt d = σ.posAt d := by
  simp [State.posAt]

@[simp] theorem raiseRead_coefAt (e : Err) (d t : Fin 8) (k : Fin 5) :
    (σ.raiseRead e).coefAt d t k = σ.coefAt d t k := by
  simp [State.coefAt]

@[simp] theorem raiseRead_histPair (e : Err) (d t : Fin 8) :
    (σ.raiseRead e).histPair d t = σ.histPair d t := by
  simp [State.histPair]

@[simp] theorem raiseRead_histAt (e : Err) (d t : Fin 8) (j : Fin 2) :
    (σ.raiseRead e).histAt d t j = σ.histAt d t j := by
  simp [State.histAt, State.histPair]

@[simp] theorem raiseRead_inbufAt (e : Err) (d : Fin 8) (m : Fin 32) :
    (σ.raiseRead e).inbufAt d m = σ.inbufAt d m := by
  simp [State.inbufAt]

@[simp] theorem raiseRead_outbufAt (e : Err) (d : Fin 8) (m : Fin 32) :
    (σ.raiseRead e).outbufAt d m = σ.outbufAt d m := by
  simp [State.outbufAt]

@[simp] theorem raiseRead_xAt (e : Err) (d : Fin 8) :
    (σ.raiseRead e).xAt d = σ.xAt d := by
  simp [State.xAt]

@[simp] theorem raiseRead_posAt (e : Err) (d : Fin 8) :
    (σ.raiseRead e).posAt d = σ.posAt d := by
  simp [State.posAt]

end Sys2Proof.Machine
end

