-- ==== Sys2Proof/Laws/Engine.lean ====
section
/-! SUPPORT. The arithmetic in terms of the library's bit vectors, and the frame of every operation of the
data path. -/

namespace Sys2Proof.Machine

variable {w : Nat}

/-! ### Narrowing -/

/-- `wrap` leaves the residue modulo `2 ^ w` alone, so narrowing is the library's `ofInt`. -/
theorem narrow_eq_ofInt (w : Nat) (z : Int) : narrow w z = BitVec.ofInt w z := by
  apply BitVec.eq_of_toInt_eq
  simp only [narrow, BitVec.toInt_ofInt]
  rw [Int.bmod_eq_bmod_iff_bmod_sub_eq_zero]
  apply Int.bmod_eq_zero_of_dvd
  have h := Int.emod_add_mul_ediv (z + 2 ^ (w - 1)) (2 ^ w)
  refine ⟨-((z + 2 ^ (w - 1)) / 2 ^ w), ?_⟩
  push_cast
  unfold wrap
  linarith

/-! ### What BIQUAD, load, store and CASCADE leave alone in a channel -/

section Channel

variable {w : Nat} (ch : Channel w)

@[simp] theorem chBiquad_coef (s : Fin 8) : (ch.biquad s).coef = ch.coef := rfl
@[simp] theorem chBiquad_inbuf (s : Fin 8) : (ch.biquad s).inbuf = ch.inbuf := rfl
@[simp] theorem chBiquad_outbuf (s : Fin 8) : (ch.biquad s).outbuf = ch.outbuf := rfl
@[simp] theorem chBiquad_pos (s : Fin 8) : (ch.biquad s).pos = ch.pos := rfl
theorem chBiquad_x (s : Fin 8) :
    (ch.biquad s).x = (biquad ch.coef[s.val] ch.hist[s.val] ch.x).y := rfl
theorem chBiquad_hist (s : Fin 8) :
    (ch.biquad s).hist = ch.hist.set s.val (biquad ch.coef[s.val] ch.hist[s.val] ch.x).hist := rfl

@[simp] theorem load_coef (n : Fin 32) : (ch.load n).coef = ch.coef := rfl
@[simp] theorem load_hist (n : Fin 32) : (ch.load n).hist = ch.hist := rfl
@[simp] theorem load_inbuf (n : Fin 32) : (ch.load n).inbuf = ch.inbuf := rfl
@[simp] theorem load_outbuf (n : Fin 32) : (ch.load n).outbuf = ch.outbuf := rfl
@[simp] theorem load_x (n : Fin 32) : (ch.load n).x = ch.inbuf[n.val] := rfl
@[simp] theorem load_pos (n : Fin 32) : (ch.load n).pos = ch.pos := rfl

@[simp] theorem store_coef (n : Fin 32) : (ch.store n).coef = ch.coef := rfl
@[simp] theorem store_hist (n : Fin 32) : (ch.store n).hist = ch.hist := rfl
@[simp] theorem store_inbuf (n : Fin 32) : (ch.store n).inbuf = ch.inbuf := rfl
@[simp] theorem store_outbuf (n : Fin 32) : (ch.store n).outbuf = ch.outbuf.set n.val ch.x := rfl
@[simp] theorem store_x (n : Fin 32) : (ch.store n).x = ch.x := rfl
@[simp] theorem store_pos (n : Fin 32) : (ch.store n).pos = ch.pos := rfl

/-- Any run of BIQUADs leaves coefficients, buffers and the position alone. -/
theorem stages_frame (l : List (Fin 8)) :
    (l.foldl Channel.biquad ch).coef = ch.coef ∧ (l.foldl Channel.biquad ch).inbuf = ch.inbuf
      ∧ (l.foldl Channel.biquad ch).outbuf = ch.outbuf ∧ (l.foldl Channel.biquad ch).pos = ch.pos := by
  induction l generalizing ch with
  | nil => exact ⟨rfl, rfl, rfl, rfl⟩
  | cons s l ih => exact ih (ch.biquad s)

@[simp] theorem chCascade_coef (n : Fin 32) : (ch.cascade n).coef = ch.coef := by
  simp [Channel.cascade, stages_frame]
@[simp] theorem chCascade_inbuf (n : Fin 32) : (ch.cascade n).inbuf = ch.inbuf := by
  simp [Channel.cascade, stages_frame]
@[simp] theorem chCascade_pos (n : Fin 32) : (ch.cascade n).pos = ch.pos := by
  simp [Channel.cascade, stages_frame]
theorem chCascade_outbuf (n : Fin 32) :
    (ch.cascade n).outbuf = ch.outbuf.set n.val (ch.cascade n).x := by
  simp [Channel.cascade, stages_frame]

/-- Any run of cascades leaves coefficients, the input and the position alone. -/
theorem cascades_frame (l : List (Fin 32)) :
    (l.foldl Channel.cascade ch).coef = ch.coef ∧ (l.foldl Channel.cascade ch).inbuf = ch.inbuf
      ∧ (l.foldl Channel.cascade ch).pos = ch.pos := by
  induction l generalizing ch with
  | nil => exact ⟨rfl, rfl, rfl⟩
  | cons n l ih => simpa using ih (ch.cascade n)

@[simp] theorem chFrame_coef : ch.frame.coef = ch.coef := (cascades_frame ch _).1
@[simp] theorem chFrame_inbuf : ch.frame.inbuf = ch.inbuf := (cascades_frame ch _).2.1
@[simp] theorem chFrame_pos : ch.frame.pos = ch.pos := (cascades_frame ch _).2.2

/-- A lane step leaves the channel's coefficients and input alone. -/
@[simp] theorem chLaneStep_coef : ch.laneStep.coef = ch.coef := by
  unfold Channel.laneStep
  split
  · by_cases h0 : ch.pos.s = 0 <;> by_cases h7 : ch.pos.s = 7 <;> simp_all
  · rfl

@[simp] theorem chLaneStep_inbuf : ch.laneStep.inbuf = ch.inbuf := by
  unfold Channel.laneStep
  split
  · by_cases h0 : ch.pos.s = 0 <;> by_cases h7 : ch.pos.s = 7 <;> simp_all
  · rfl

/-- How a lane step advances the position (10_state.md R29). -/
theorem chLaneStep_pos (h : ch.pos.n.val < 32) :
    ch.laneStep.pos
      = if ch.pos.s = 7 then { n := (⟨ch.pos.n.val, h⟩ : Fin 32).succ, s := 0 }
        else { n := ch.pos.n, s := ch.pos.s + 1 } := by
  unfold Channel.laneStep
  rw [dif_pos h]
  by_cases h7 : ch.pos.s = 7 <;> simp [h7]

/-- A lane step touches the history of its own stage alone (40_biquad_stage.md R130). -/
theorem chLaneStep_hist_other (h : ch.pos.n.val < 32) {s : Fin 8} (hs : ch.pos.s ≠ s) :
    ch.laneStep.hist[s.val] = ch.hist[s.val] := by
  have hv : ch.pos.s.val ≠ s.val := fun e => hs (Fin.ext e)
  unfold Channel.laneStep
  rw [dif_pos h]
  by_cases h0 : ch.pos.s = 0 <;> by_cases h7 : ch.pos.s = 7 <;> simp_all [chBiquad_hist]

/-- A lane step touches an output word only after stage 7, and then its own sample's (42_frame.md R155). -/
theorem chLaneStep_outbuf_other (h : ch.pos.n.val < 32) {n : Fin 32}
    (hs : ¬(ch.pos.n.val = n.val ∧ ch.pos.s = 7)) : ch.laneStep.outbuf[n.val] = ch.outbuf[n.val] := by
  unfold Channel.laneStep
  rw [dif_pos h]
  by_cases h0 : ch.pos.s = 0 <;> by_cases h7 : ch.pos.s = 7 <;> simp_all

/-- A lane that has a step moves on (10_state.md R29). -/
theorem chLaneStep_pos_ne (h : ch.pos.n.val < 32) : ch.laneStep.pos ≠ ch.pos := by
  rw [chLaneStep_pos _ h]
  intro e
  split at e
  · simpa using congrArg (fun p => p.n.val) e
  · have := congrArg (fun p => p.s.val) e
    simp at this
    omega

/-! ### The position takes no part in the data -/

theorem stages_pos (l : List (Fin 8)) (p : Pos) :
    l.foldl Channel.biquad { ch with pos := p } = { l.foldl Channel.biquad ch with pos := p } := by
  induction l generalizing ch with
  | nil => rfl
  | cons s l ih => exact ih (ch.biquad s)

theorem cascade_pos (n : Fin 32) (p : Pos) :
    Channel.cascade { ch with pos := p } n = { ch.cascade n with pos := p } := by
  have h : Channel.load { ch with pos := p } n = { ch.load n with pos := p } := rfl
  unfold Channel.cascade
  rw [h, stages_pos]
  rfl

/-- Eight lane steps from `(n, 0)` are one cascade of sample `n`. -/
theorem laneSteps_sample (n : Fin 32) (h : ch.pos = { n := n.castSucc, s := 0 }) :
    Channel.laneStep^[8] ch = { ch.cascade n with pos := { n := n.succ, s := 0 } } := by
  have stages : List.finRange 8 = [0, 1, 2, 3, 4, 5, 6, 7] := by decide
  obtain ⟨q, hs, ib, ob, x, p⟩ := ch
  simp only at h
  subst h
  simp only [Function.iterate_succ, Function.iterate_zero, Function.comp, id]
  simp [Channel.laneStep, Channel.cascade, stages]
  simp [Channel.load, Channel.biquad]

/-- A lane at `(32, 0)` has no step. -/
theorem laneStep_finished (h : ch.pos = Pos.finished) : ch.laneStep = ch := by
  unfold Channel.laneStep
  rw [dif_neg (by rw [h]; decide)]

end Channel

/-! ### Writes of two channels -/

variable (σ : State w)

theorem modChan_modChan (c : Fin 8) (f g : Channel w → Channel w) :
    (σ.modChan c f).modChan c g = σ.modChan c fun ch => g (f ch) := by
  have h : (σ.modChan c f).chan[c.val] = f σ.chan[c.val] := modChan_chan_same σ c f
  simp only [State.modChan] at h ⊢
  simp

theorem modChan_comm {c d : Fin 8} (h : c ≠ d) (f g : Channel w → Channel w) :
    (σ.modChan c f).modChan d g = (σ.modChan d g).modChan c f := by
  have e : ((σ.modChan c f).modChan d g).chan = ((σ.modChan d g).modChan c f).chan := by
    apply vec_ext
    intro i
    simp only [modChan_chan]
    by_cases hc : c = i <;> by_cases hd : d = i <;> simp_all
  exact congrArg (fun v => { σ with chan := v }) e

end Sys2Proof.Machine
end

