-- ==== Sys2Proof/Laws/Operands.lean ====
section
/-! SUPPORT. The address map as arithmetic: which addresses name which storage word (20_memory.md R62 to
R65), and the word read at each. -/

namespace Sys2Proof.Machine

variable {w : Nat}

/-! ### Bit slices as quotients -/

theorem field3_val {w : Nat} (v : BitVec w) (lo : Nat) :
    (field3 v lo).val = v.toNat / 2 ^ lo % 8 := by
  simp [field3, slice]

theorem field5_val {w : Nat} (v : BitVec w) : (field5 v).val = v.toNat % 32 := by
  simp [field5, slice]

theorem field1_val {w : Nat} (v : BitVec w) : (field1 v).val = v.toNat % 2 := by
  simp [field1, slice]

/-! ### The map, region by region -/

theorem regionOf_coef (a : Addr) (c s : Fin 8) (k : Fin 5) :
    regionOf a = some (.coef c s k) ↔ a.toNat = coefAddr c s k := by
  have ha := a.isLt
  constructor
  · intro h
    unfold regionOf at h
    repeat' split at h
    all_goals
      simp only [reduceCtorEq, Option.some.injEq, Region.coef.injEq, Fin.ext_iff, field3_val] at h
    all_goals
      simp only [slice] at *
      simp only [coefAddr]
      omega
  · intro h
    simp only [coefAddr] at h
    unfold regionOf
    rw [if_pos (show slice a 11 9 = 0 by simp only [slice]; omega)]
    rw [dif_pos (show slice a 2 0 < 5 by simp only [slice]; omega)]
    simp only [Option.some.injEq, Region.coef.injEq, Fin.ext_iff, field3_val, slice]
    omega

theorem regionOf_hist (a : Addr) (c s : Fin 8) (j : Fin 2) :
    regionOf a = some (.hist c s j) ↔ a.toNat = histAddr c s j := by
  have ha := a.isLt
  constructor
  · intro h
    unfold regionOf at h
    repeat' split at h
    all_goals
      simp only [reduceCtorEq, Option.some.injEq, Region.hist.injEq, Fin.ext_iff, field3_val, field1_val] at h
    all_goals
      simp only [slice] at *
      simp only [histAddr]
      omega
  · intro h
    simp only [histAddr] at h
    unfold regionOf
    rw [if_neg (show ¬ slice a 11 9 = 0 by simp only [slice]; omega)]
    rw [if_pos (show slice a 11 7 = 4 by simp only [slice]; omega)]
    simp only [Option.some.injEq, Region.hist.injEq, Fin.ext_iff, field3_val, field1_val]
    omega

theorem regionOf_inbuf (a : Addr) (c : Fin 8) (n : Fin 32) :
    regionOf a = some (.inbuf c n) ↔ a.toNat = inbufAddr c n := by
  have ha := a.isLt
  constructor
  · intro h
    unfold regionOf at h
    repeat' split at h
    all_goals
      simp only [reduceCtorEq, Option.some.injEq, Region.inbuf.injEq, Fin.ext_iff, field3_val, field5_val] at h
    all_goals
      simp only [slice] at *
      simp only [inbufAddr]
      omega
  · intro h
    simp only [inbufAddr] at h
    unfold regionOf
    rw [if_neg (show ¬ slice a 11 9 = 0 by simp only [slice]; omega)]
    rw [if_neg (show ¬ slice a 11 7 = 4 by simp only [slice]; omega)]
    rw [if_pos (show slice a 11 8 = 3 by simp only [slice]; omega)]
    simp only [Option.some.injEq, Region.inbuf.injEq, Fin.ext_iff, field3_val, field5_val]
    omega

theorem regionOf_outbuf (a : Addr) (c : Fin 8) (n : Fin 32) :
    regionOf a = some (.outbuf c n) ↔ a.toNat = outbufAddr c n := by
  have ha := a.isLt
  constructor
  · intro h
    unfold regionOf at h
    repeat' split at h
    all_goals
      simp only [reduceCtorEq, Option.some.injEq, Region.outbuf.injEq, Fin.ext_iff, field3_val, field5_val] at h
    all_goals
      simp only [slice] at *
      simp only [outbufAddr]
      omega
  · intro h
    simp only [outbufAddr] at h
    unfold regionOf
    rw [if_neg (show ¬ slice a 11 9 = 0 by simp only [slice]; omega)]
    rw [if_neg (show ¬ slice a 11 7 = 4 by simp only [slice]; omega)]
    rw [if_neg (show ¬ slice a 11 8 = 3 by simp only [slice]; omega)]
    rw [if_pos (show slice a 11 8 = 4 by simp only [slice]; omega)]
    simp only [Option.some.injEq, Region.outbuf.injEq, Fin.ext_iff, field3_val, field5_val]
    omega

theorem regionOf_cmd (a : Addr) :
    regionOf a = some .cmd ↔ a.toNat = cmdAddr := by
  have ha := a.isLt
  constructor
  · intro h
    unfold regionOf at h
    repeat' split at h
    all_goals
      simp only [reduceCtorEq, Option.some.injEq] at h
    all_goals
      simp only [slice] at *
      simp only [cmdAddr]
      omega
  · intro h
    simp only [cmdAddr] at h
    unfold regionOf
    rw [if_neg (show ¬ slice a 11 9 = 0 by simp only [slice]; omega)]
    rw [if_neg (show ¬ slice a 11 7 = 4 by simp only [slice]; omega)]
    rw [if_neg (show ¬ slice a 11 8 = 3 by simp only [slice]; omega)]
    rw [if_neg (show ¬ slice a 11 8 = 4 by simp only [slice]; omega)]
    rw [if_pos (show slice a 11 2 = 0x140 by simp only [slice]; omega)]
    rw [if_pos (show slice a 1 0 = 0 by simp only [slice]; omega)]

theorem regionOf_status (a : Addr) :
    regionOf a = some .status ↔ a.toNat = statusAddr := by
  have ha := a.isLt
  constructor
  · intro h
    unfold regionOf at h
    repeat' split at h
    all_goals
      simp only [reduceCtorEq, Option.some.injEq] at h
    all_goals
      simp only [slice] at *
      simp only [statusAddr]
      omega
  · intro h
    simp only [statusAddr] at h
    unfold regionOf
    rw [if_neg (show ¬ slice a 11 9 = 0 by simp only [slice]; omega)]
    rw [if_neg (show ¬ slice a 11 7 = 4 by simp only [slice]; omega)]
    rw [if_neg (show ¬ slice a 11 8 = 3 by simp only [slice]; omega)]
    rw [if_neg (show ¬ slice a 11 8 = 4 by simp only [slice]; omega)]
    rw [if_pos (show slice a 11 2 = 0x140 by simp only [slice]; omega)]
    rw [if_neg (show ¬ slice a 1 0 = 0 by simp only [slice]; omega)]
    rw [if_pos (show slice a 1 0 = 1 by simp only [slice]; omega)]

theorem regionOf_config (a : Addr) :
    regionOf a = some .config ↔ a.toNat = configAddr := by
  have ha := a.isLt
  constructor
  · intro h
    unfold regionOf at h
    repeat' split at h
    all_goals
      simp only [reduceCtorEq, Option.some.injEq] at h
    all_goals
      simp only [slice] at *
      simp only [configAddr]
      omega
  · intro h
    simp only [configAddr] at h
    unfold regionOf
    rw [if_neg (show ¬ slice a 11 9 = 0 by simp only [slice]; omega)]
    rw [if_neg (show ¬ slice a 11 7 = 4 by simp only [slice]; omega)]
    rw [if_neg (show ¬ slice a 11 8 = 3 by simp only [slice]; omega)]
    rw [if_neg (show ¬ slice a 11 8 = 4 by simp only [slice]; omega)]
    rw [if_pos (show slice a 11 2 = 0x140 by simp only [slice]; omega)]
    rw [if_neg (show ¬ slice a 1 0 = 0 by simp only [slice]; omega)]
    rw [if_neg (show ¬ slice a 1 0 = 1 by simp only [slice]; omega)]
    rw [if_pos (show slice a 1 0 = 2 by simp only [slice]; omega)]

theorem regionOf_width (a : Addr) :
    regionOf a = some .width ↔ a.toNat = widthAddr := by
  have ha := a.isLt
  constructor
  · intro h
    unfold regionOf at h
    repeat' split at h
    all_goals
      simp only [reduceCtorEq, Option.some.injEq] at h
    all_goals
      simp only [slice] at *
      simp only [widthAddr]
      omega
  · intro h
    simp only [widthAddr] at h
    unfold regionOf
    rw [if_neg (show ¬ slice a 11 9 = 0 by simp only [slice]; omega)]
    rw [if_neg (show ¬ slice a 11 7 = 4 by simp only [slice]; omega)]
    rw [if_neg (show ¬ slice a 11 8 = 3 by simp only [slice]; omega)]
    rw [if_neg (show ¬ slice a 11 8 = 4 by simp only [slice]; omega)]
    rw [if_pos (show slice a 11 2 = 0x140 by simp only [slice]; omega)]
    rw [if_neg (show ¬ slice a 1 0 = 0 by simp only [slice]; omega)]
    rw [if_neg (show ¬ slice a 1 0 = 1 by simp only [slice]; omega)]
    rw [if_neg (show ¬ slice a 1 0 = 2 by simp only [slice]; omega)]

/-- The word read at an address depends on the region alone. -/
theorem peek_of_region {σ : State w} {a : Addr} {r : Region} (h : regionOf a = some r) :
    σ.peek a = σ.readRegion r := by
  simp [State.peek, h]

theorem peek_coef (σ : State w) (a : Addr) (c s : Fin 8) (k : Fin 5) (h : a.toNat = coefAddr c s k) :
    σ.peek a = σ.coefAt c s k := peek_of_region ((regionOf_coef a c s k).2 h)

theorem peek_hist (σ : State w) (a : Addr) (c s : Fin 8) (j : Fin 2) (h : a.toNat = histAddr c s j) :
    σ.peek a = σ.histAt c s j := peek_of_region ((regionOf_hist a c s j).2 h)

theorem peek_inbuf (σ : State w) (a : Addr) (c : Fin 8) (n : Fin 32) (h : a.toNat = inbufAddr c n) :
    σ.peek a = σ.inbufAt c n := peek_of_region ((regionOf_inbuf a c n).2 h)

theorem peek_outbuf (σ : State w) (a : Addr) (c : Fin 8) (n : Fin 32) (h : a.toNat = outbufAddr c n) :
    σ.peek a = σ.outbufAt c n := peek_of_region ((regionOf_outbuf a c n).2 h)

/-- Two states whose storage agrees in every region but `STATUS` read the same at every address but
`STATUS`'s. -/
theorem peek_congr {σ τ : State w} (a : Addr) (ha : a.toNat ≠ statusAddr)
    (h : ∀ r, r ≠ .status → regionOf a = some r → τ.readRegion r = σ.readRegion r) :
    τ.peek a = σ.peek a := by
  unfold State.peek
  cases hr : regionOf a with
  | none => rfl
  | some r =>
    refine h r ?_ hr
    rintro rfl
    exact ha ((regionOf_status a).1 hr)

end Sys2Proof.Machine
end

