-- ==== Sys2Proof/Laws/Ops.lean ====
section
/-! SUPPORT. For each shared operation, one lemma that says everything it can do; provers cite these and
unfold no operation. -/

namespace Sys2Proof.Machine

variable {w : Nat}

open Host (Outcome)

variable (σ : State w)

/-! ### Raising an error (60_exceptions.md R213) -/

theorem raise_of_clear {e : Err} (h : σ.errcode = 0) : σ.raise e = { σ with errcode := e.code } :=
  if_pos h

theorem raise_of_recorded {e : Err} (h : σ.errcode ≠ 0) : σ.raise e = σ := if_neg h

/-- All that `raise` can do: record the code, or nothing. -/
theorem raise_cases (e : Err) :
    (σ.errcode = 0 ∧ σ.raise e = { σ with errcode := e.code }) ∨ (σ.errcode ≠ 0 ∧ σ.raise e = σ) := by
  by_cases h : σ.errcode = 0
  · exact .inl ⟨h, raise_of_clear σ h⟩
  · exact .inr ⟨h, raise_of_recorded σ h⟩

/-- `raise` touches no field but the error code. -/
theorem raise_frame (e : Err) : σ.raise e = { σ with errcode := (σ.raise e).errcode } := by
  rcases raise_cases σ e with ⟨_, h⟩ | ⟨_, h⟩ <;> rw [h]

theorem raiseRead_frame (e : Err) :
    σ.raiseRead e = { σ with errcode := (σ.raise e).errcode, reply := some 0 } := by
  unfold State.raiseRead
  rw [raise_frame σ e]
  rfl

theorem err_code_ne_zero (e : Err) : e.code ≠ 0 := by cases e <;> decide

theorem err_code_le (e : Err) : e.code.toNat ≤ 4 := by cases e <;> decide

/-- After a raise an error is recorded. -/
theorem raise_errcode_ne_zero (e : Err) : (σ.raise e).errcode ≠ 0 := by
  rcases raise_cases σ e with ⟨_, h⟩ | ⟨h', h⟩
  · rw [h]; exact err_code_ne_zero e
  · rwa [h]

/-! ### The busy check (43_host_access.md R170) -/

theorem idleWrite_idle {f : State w → State w} (h : σ.busy = false) : σ.idleWrite f = f σ := by
  simp [State.idleWrite, h]

theorem idleWrite_busy {f : State w → State w} (h : σ.busy = true) : σ.idleWrite f = σ.raise .busy := by
  simp [State.idleWrite, h]

theorem idleRead_idle {v : State w → Word w} (h : σ.busy = false) : σ.idleRead v = σ.answer (v σ) := by
  simp [State.idleRead, h]

theorem idleRead_busy {v : State w → Word w} (h : σ.busy = true) : σ.idleRead v = σ.raiseRead .busy := by
  simp [State.idleRead, h]

/-! ### The meanings and the turns -/

/-- `exec` is the meaning of an instruction at the default width. -/
theorem exec_eq_perform (i : Instr) (σ : State) : exec i σ = perform i σ := by cases i <;> rfl

/-- No instruction stops the machine, at any width. -/
theorem perform_answers (i : Instr w) : ∃ τ, perform i σ = .next τ := by
  cases i with
  | wrcoef c s k v => by_cases h : k.val < 5 <;> exact ⟨_, by simp only [perform, execWrcoef, h]; rfl⟩
  | rdcoef c s k => by_cases h : k.val < 5 <;> exact ⟨_, by simp only [perform, execRdcoef, h]; rfl⟩
  | rdhist c s j => exact ⟨_, rfl⟩
  | wrin c n v => exact ⟨_, rfl⟩
  | rdin c n => exact ⟨_, rfl⟩
  | rdout c n => exact ⟨_, rfl⟩
  | rdcmd => exact ⟨_, rfl⟩
  | rdstat => exact ⟨_, rfl⟩
  | rdcfg => exact ⟨_, rfl⟩
  | rdwidth => exact ⟨_, rfl⟩
  | nop => exact ⟨_, rfl⟩
  | start => exact ⟨_, rfl⟩
  | inits c s => exact ⟨_, rfl⟩
  | initc c => exact ⟨_, rfl⟩
  | inita => exact ⟨_, rfl⟩
  | clrerr => exact ⟨_, rfl⟩

/-- No instruction stops the machine of the default width. -/
theorem exec_answers (i : Instr) (σ : State) : ∃ τ, exec i σ = .next τ := by
  rw [exec_eq_perform]
  exact perform_answers σ i

/-- All that a host transaction can do: run the decoded instruction, record one of the errors, or (a header
that names no transaction) be refused. -/
theorem transact_cases (t : Transaction w) :
    (∃ i, decode t = .ok i ∧ transact t σ = perform i σ)
    ∨ (decode t = .error .notATransaction ∧ transact t σ = .refused (.notATransaction t.header))
    ∨ (∃ e, transact t σ = .next (σ.refuse t e)) := by
  unfold transact
  cases h : decode t with
  | ok i => exact .inl ⟨i, rfl, rfl⟩
  | error r =>
    cases r with
    | notATransaction => exact .inr (.inl ⟨rfl, rfl⟩)
    | reservedAddress => exact .inr (.inr ⟨_, rfl⟩)
    | readOnlyLocation => exact .inr (.inr ⟨_, rfl⟩)
    | malformedCommand => exact .inr (.inr ⟨_, rfl⟩)

/-- A refused transaction touches the error code and the port's answer alone. -/
theorem refuse_frame (t : Transaction w) (e : Err) :
    σ.refuse t e
      = { σ with errcode := (σ.raise e).errcode
                 reply := if t.isWrite then σ.reply else some 0 } := by
  unfold State.refuse
  split
  · exact raise_frame σ e
  · exact raiseRead_frame σ e

end Sys2Proof.Machine
end

