-- ==== Sys2Proof/Laws/PerInstr.lean ====
section
/-! SUPPORT. The statements made per instruction: family `Header`, the header an instruction is written with
names a transaction, its bits `[14:12]` being zero (30_encoding.md R91). -/

namespace Sys2Proof.Laws.Header

/-- The header of the instruction's transaction has the bits `[14:12]` zero. -/
def Statement (i : Instr) : Prop := slice (encode i).header 14 12 = 0

theorem of_wr {a : Nat} (h : a < 0x1000) (v : Word) : slice (wr a v).header 14 12 = 0 := by
  simp only [slice, wr_header_toNat h]; omega

theorem of_rd {a : Nat} (h : a < 0x1000) : slice (rd a : Transaction).header 14 12 = 0 := by
  simp only [slice, rd_header_toNat h]; omega

theorem wrcoef (c s k : Fin 8) (v : Word) : Statement (.wrcoef c s k v) :=
  of_wr (by unfold coefAddr; omega) v
theorem rdcoef (c s k : Fin 8) : Statement (.rdcoef c s k) := of_rd (by unfold coefAddr; omega)
theorem rdhist (c s : Fin 8) (j : Fin 2) : Statement (.rdhist c s j) :=
  of_rd (by unfold histAddr; omega)
theorem wrin (c : Fin 8) (n : Fin 32) (v : Word) : Statement (.wrin c n v) :=
  of_wr (by unfold inbufAddr; omega) v
theorem rdin (c : Fin 8) (n : Fin 32) : Statement (.rdin c n) := of_rd (by unfold inbufAddr; omega)
theorem rdout (c : Fin 8) (n : Fin 32) : Statement (.rdout c n) := of_rd (by unfold outbufAddr; omega)
theorem rdcmd : Statement .rdcmd := of_rd (by decide)
theorem rdstat : Statement .rdstat := of_rd (by decide)
theorem rdcfg : Statement .rdcfg := of_rd (by decide)
theorem rdwidth : Statement .rdwidth := of_rd (by decide)
theorem nop : Statement .nop := of_wr (by decide) _
theorem start : Statement .start := of_wr (by decide) _
theorem inits (c s : Fin 8) : Statement (.inits c s) := of_wr (by decide) _
theorem initc (c : Fin 8) : Statement (.initc c) := of_wr (by decide) _
theorem inita : Statement .inita := of_wr (by decide) _
theorem clrerr : Statement .clrerr := of_wr (by decide) _

end Sys2Proof.Laws.Header
end

