-- ==== Sys2Proof/Laws/Step.lean ====
section
/-! SUPPORT. All that the engine's own moves and one step can do; provers cite these cases and unfold no
step. -/

namespace Sys2Proof.Machine

variable {w : Nat}

variable (σ : State w)

theorem laneEnabled_iff (c : Fin 8) :
    σ.laneEnabled c = true ↔ σ.busy = true ∧ (σ.posAt c).n.val ≤ 31 := by
  simp [State.laneEnabled]

theorem lanesFinished_iff : σ.lanesFinished = true ↔ ∀ c, σ.posAt c = Pos.finished := by
  simp [State.lanesFinished]

/-- A lane's turn: its step if it has one, else nothing. -/
theorem laneStep_cases (c : Fin 8) :
    (σ.busy = true ∧ (σ.posAt c).n.val ≤ 31 ∧ σ.laneStep c = σ.modChan c Channel.laneStep)
      ∨ (¬(σ.busy = true ∧ (σ.posAt c).n.val ≤ 31) ∧ σ.laneStep c = σ) := by
  by_cases h : σ.laneEnabled c = true
  · obtain ⟨hb, hp⟩ := (laneEnabled_iff σ c).1 h
    exact .inl ⟨hb, hp, if_pos h⟩
  · exact .inr ⟨fun hh => h ((laneEnabled_iff σ c).2 hh), if_neg h⟩

/-- The completion's turn: the end of the run if every lane has finished, else nothing. -/
theorem complete_cases :
    (σ.busy = true ∧ (∀ c, σ.posAt c = Pos.finished) ∧ σ.complete = σ.endRun)
      ∨ (¬(σ.busy = true ∧ ∀ c, σ.posAt c = Pos.finished) ∧ σ.complete = σ) := by
  have e : (σ.busy && σ.lanesFinished) = true ↔ σ.busy = true ∧ ∀ c, σ.posAt c = Pos.finished := by
    rw [Bool.and_eq_true, lanesFinished_iff]
  by_cases h : (σ.busy && σ.lanesFinished) = true
  · exact .inl ⟨(e.1 h).1, (e.1 h).2, if_pos h⟩
  · exact .inr ⟨fun hh => h (e.2 hh), if_neg h⟩

/-- The lane the engine offers its step to has one. -/
theorem nextLane_some {p c : Fin 8} (h : σ.nextLane p = some c) : σ.laneEnabled c = true :=
  List.find?_some h

/-- Where no lane is offered a step, none has one. -/
theorem nextLane_none {p : Fin 8} (h : σ.nextLane p = none) (c : Fin 8) : σ.laneEnabled c = false := by
  unfold State.nextLane at h
  rw [List.find?_eq_none] at h
  simpa using h c (List.mem_map.2 ⟨c - p, List.mem_finRange _, by omega⟩)

/-- The engine left alone: nothing while idle; while busy a lane's step, or, if no lane has one, the
completion's turn. -/
theorem runAlone_cases :
    (σ.busy = false ∧ σ.runAlone = σ)
      ∨ (σ.busy = true ∧ ∃ c, (σ.posAt c).n.val ≤ 31
          ∧ σ.runAlone = { σ.modChan c Channel.laneStep with turn := σ.turn + 1 })
      ∨ (σ.busy = true ∧ (∀ c, ¬(σ.posAt c).n.val ≤ 31) ∧ σ.runAlone = σ.complete) := by
  unfold State.runAlone
  cases hb : σ.busy with
  | false => exact .inl ⟨rfl, by simp⟩
  | true =>
    refine .inr ?_
    cases hn : σ.nextLane (Config.lanePick σ.turn) with
    | some c =>
      have h := nextLane_some σ hn
      refine .inl ⟨rfl, c, ((laneEnabled_iff σ c).1 h).2, ?_⟩
      simp [State.laneStep, h]
    | none =>
      refine .inr ⟨rfl, fun c hc => ?_, by simp⟩
      simpa [nextLane_none σ hn c] using (laneEnabled_iff σ c).2 ⟨hb, hc⟩

/-- One step at any width: the engine's own move, or the next turn. (`step` is `nextTurn` at the default
width.) -/
theorem nextTurn_cases {τ : State w} (h : nextTurn σ = .next τ) :
    (σ.agenda = [] ∧ τ = σ.runAlone)
      ∨ (∃ t rest, σ.agenda = .host t :: rest ∧ transact t { σ with agenda := rest } = .next τ)
      ∨ (∃ c rest, σ.agenda = .lane c :: rest ∧ τ = State.laneStep { σ with agenda := rest } c)
      ∨ (∃ rest, σ.agenda = .complete :: rest ∧ τ = State.complete { σ with agenda := rest })
      ∨ (∃ rest, σ.agenda = .reset :: rest ∧ τ = State.resetEvent { σ with agenda := rest }) := by
  unfold nextTurn at h
  cases ha : σ.agenda with
  | nil =>
    rw [ha] at h
    exact .inl ⟨rfl, by injection h with h; exact h.symm⟩
  | cons u rest =>
    rw [ha] at h
    refine .inr ?_
    cases u with
    | host t => exact .inl ⟨t, rest, rfl, h⟩
    | lane c => exact .inr (.inl ⟨c, rest, rfl, by injection h with h; exact h.symm⟩)
    | complete => exact .inr (.inr (.inl ⟨rest, rfl, by injection h with h; exact h.symm⟩))
    | reset => exact .inr (.inr (.inr ⟨rest, rfl, by injection h with h; exact h.symm⟩))

/-- All that an instruction can do: an error, an answer, one word, the begin of a run, zeroed histories, a
cleared error, or nothing. -/
theorem perform_cases {i : Instr w} {τ : State w} (h : perform i σ = .next τ) :
    (∃ e, τ = σ.raise e) ∨ (∃ e, τ = σ.raiseRead e) ∨ (∃ v, τ = σ.answer v)
      ∨ (σ.busy = false ∧
        ((∃ c s k k' v, i = .wrcoef c s k' v ∧ k'.val = k.val ∧ τ = σ.setCoef c s k v)
          ∨ (∃ c n v, i = .wrin c n v ∧ τ = σ.setInbuf c n v)
          ∨ (i = .nop ∧ τ = σ) ∨ (i = .start ∧ τ = σ.beginRun)
          ∨ (∃ c s, i = .inits c s ∧ τ = σ.zeroStage c s)
          ∨ (∃ c, i = .initc c ∧ τ = σ.zeroChannel c)
          ∨ (i = .inita ∧ τ = σ.zeroAll) ∨ (i = .clrerr ∧ τ = σ.clearError))) := by
  cases hb : σ.busy with
  | true =>
    have hw := fun f => idleWrite_busy σ (f := f) hb
    have hr := fun v => idleRead_busy σ (v := v) hb
    cases i with
    | wrcoef c s k v =>
      simp only [perform, execWrcoef, hw] at h
      split at h <;> (injection h with h; exact .inl ⟨_, h.symm⟩)
    | rdcoef c s k =>
      simp only [perform, execRdcoef, hr] at h
      split at h <;> (injection h with h; exact .inr (.inl ⟨_, h.symm⟩))
    | rdhist c s j => simp only [perform, execRdhist, hr] at h; injection h with h; exact .inr (.inl ⟨_, h.symm⟩)
    | wrin c n v => simp only [perform, execWrin, hw] at h; injection h with h; exact .inl ⟨_, h.symm⟩
    | rdin c n => simp only [perform, execRdin, hr] at h; injection h with h; exact .inr (.inl ⟨_, h.symm⟩)
    | rdout c n => simp only [perform, execRdout, hr] at h; injection h with h; exact .inr (.inl ⟨_, h.symm⟩)
    | rdcmd => injection h with h; exact .inr (.inr (.inl ⟨_, h.symm⟩))
    | rdstat => injection h with h; exact .inr (.inr (.inl ⟨_, h.symm⟩))
    | rdcfg => injection h with h; exact .inr (.inr (.inl ⟨_, h.symm⟩))
    | rdwidth => injection h with h; exact .inr (.inr (.inl ⟨_, h.symm⟩))
    | nop => simp only [perform, execNop, hw] at h; injection h with h; exact .inl ⟨_, h.symm⟩
    | start => simp only [perform, execStart, hw] at h; injection h with h; exact .inl ⟨_, h.symm⟩
    | inits c s => simp only [perform, execInits, hw] at h; injection h with h; exact .inl ⟨_, h.symm⟩
    | initc c => simp only [perform, execInitc, hw] at h; injection h with h; exact .inl ⟨_, h.symm⟩
    | inita => simp only [perform, execInita, hw] at h; injection h with h; exact .inl ⟨_, h.symm⟩
    | clrerr => simp only [perform, execClrerr, hw] at h; injection h with h; exact .inl ⟨_, h.symm⟩
  | false =>
    have hw := fun f => idleWrite_idle σ (f := f) hb
    have hr := fun v => idleRead_idle σ (v := v) hb
    cases i with
    | wrcoef c s k v =>
      simp only [perform, execWrcoef, hw] at h
      split at h <;> injection h with h
      · exact .inr (.inr (.inr ⟨rfl, .inl ⟨c, s, _, k, v, rfl, rfl, h.symm⟩⟩))
      · exact .inl ⟨_, h.symm⟩
    | rdcoef c s k =>
      simp only [perform, execRdcoef, hr] at h
      split at h <;> injection h with h
      · exact .inr (.inr (.inl ⟨_, h.symm⟩))
      · exact .inr (.inl ⟨_, h.symm⟩)
    | rdhist c s j =>
      simp only [perform, execRdhist, hr] at h; injection h with h; exact .inr (.inr (.inl ⟨_, h.symm⟩))
    | wrin c n v =>
      simp only [perform, execWrin, hw] at h; injection h with h
      exact .inr (.inr (.inr ⟨rfl, .inr (.inl ⟨c, n, v, rfl, h.symm⟩)⟩))
    | rdin c n =>
      simp only [perform, execRdin, hr] at h; injection h with h; exact .inr (.inr (.inl ⟨_, h.symm⟩))
    | rdout c n =>
      simp only [perform, execRdout, hr] at h; injection h with h; exact .inr (.inr (.inl ⟨_, h.symm⟩))
    | rdcmd => injection h with h; exact .inr (.inr (.inl ⟨_, h.symm⟩))
    | rdstat => injection h with h; exact .inr (.inr (.inl ⟨_, h.symm⟩))
    | rdcfg => injection h with h; exact .inr (.inr (.inl ⟨_, h.symm⟩))
    | rdwidth => injection h with h; exact .inr (.inr (.inl ⟨_, h.symm⟩))
    | nop =>
      simp only [perform, execNop, hw] at h; injection h with h
      exact .inr (.inr (.inr ⟨rfl, .inr (.inr (.inl ⟨rfl, h.symm⟩))⟩))
    | start =>
      simp only [perform, execStart, hw] at h; injection h with h
      exact .inr (.inr (.inr ⟨rfl, .inr (.inr (.inr (.inl ⟨rfl, h.symm⟩)))⟩))
    | inits c s =>
      simp only [perform, execInits, hw] at h; injection h with h
      exact .inr (.inr (.inr ⟨rfl, .inr (.inr (.inr (.inr (.inl ⟨c, s, rfl, h.symm⟩))))⟩))
    | initc c =>
      simp only [perform, execInitc, hw] at h; injection h with h
      exact .inr (.inr (.inr ⟨rfl, .inr (.inr (.inr (.inr (.inr (.inl ⟨c, rfl, h.symm⟩)))))⟩))
    | inita =>
      simp only [perform, execInita, hw] at h; injection h with h
      exact .inr (.inr (.inr ⟨rfl, .inr (.inr (.inr (.inr (.inr (.inr (.inl ⟨rfl, h.symm⟩))))))⟩))
    | clrerr =>
      simp only [perform, execClrerr, hw] at h; injection h with h
      exact .inr (.inr (.inr ⟨rfl, .inr (.inr (.inr (.inr (.inr (.inr (.inr ⟨rfl, h.symm⟩))))))⟩))

/-- All that a host transaction can do: what its instruction does, or an error. -/
theorem transact_next {t : Transaction w} {τ : State w} (h : transact t σ = .next τ) :
    (∃ e, τ = σ.raise e) ∨ (∃ e, τ = σ.raiseRead e) ∨ ∃ i, decode t = .ok i ∧ perform i σ = .next τ := by
  rcases transact_cases σ t with ⟨i, hd, hi⟩ | ⟨_, hr⟩ | ⟨e, he⟩
  · exact .inr (.inr ⟨i, hd, hi ▸ h⟩)
  · rw [hr] at h; cases h
  · rw [he] at h
    injection h with h
    unfold State.refuse at h
    split at h
    · exact .inl ⟨e, h.symm⟩
    · exact .inr (.inl ⟨e, h.symm⟩)

/-! ### The machine of the default width -/

theorem step_eq_nextTurn (σ : State) : step σ = nextTurn σ := rfl

theorem core_eq_machineAt : Sys2Proof.core = machineAt Config.W := rfl

end Sys2Proof.Machine
end

