-- ==== Sys2Proof/Tests/Slice0.lean ====
section
/-! SUPPORT. Tests against 95_test_vectors.md and the examples of the rules, and for every statement with
hypotheses a theorem that meets them all. -/

namespace Sys2Proof.Tests

open Sys2Proof Sys2Proof.Machine

/-! ### Helpers -/

/-- A channel of identity stages with zero history, zero buffers, the lane finished. -/
def unitChan : Channel Config.W where
  coef := Vector.replicate 8 { b0 := 1, b1 := 0, b2 := 0, a1 := 0, a2 := 0 }
  hist := Vector.replicate 8 { s1 := 0, s2 := 0 }
  inbuf := Vector.replicate 32 0
  outbuf := Vector.replicate 32 0
  x := 0
  pos := Pos.finished

/-- An idle engine of identity stages. -/
def quiet : State where
  chan := Vector.replicate 8 unitChan
  busy := false
  done := false
  errcode := 0
  reply := none
  agenda := []
  turn := 0
  epoch := 0

/-- The same engine just after an accepted START. -/
def running : State := quiet.beginRun

/-- The start of program P1: stage 0 of channel 0 is `[2,1,1,0,0]`, `INBUF[0] = [10, 5, 0, …]`. -/
def worked : State :=
  (quiet.modChan 0 fun ch => { ch with
    coef := ch.coef.set 0 { b0 := 2, b1 := 1, b2 := 1, a1 := 0, a2 := 0 }
    inbuf := (ch.inbuf.set 0 10).set 1 5 }).beginRun

/-- `σ` with lane `c` at position `p`. -/
def atPos (σ : State) (c : Fin 8) (p : Pos) : State := σ.modChan c fun ch => { ch with pos := p }

/-- The state an outcome leads to, if it leads to one. -/
def after (o : Host.Outcome State Fault Refusal) : Option State :=
  match o with
  | .next τ => some τ
  | .fault _ => none
  | .refused _ => none

/-- The `STATUS` word after one transaction. -/
def statusAfter (t : Transaction) (σ : State) : Option Word := (after (transact t σ)).map State.statusWord

/-- The word the port shows after one transaction. -/
def replyAfter (t : Transaction) (σ : State) : Option Word := (after (transact t σ)).bind State.reply

/-! ### Well-formedness: an ill-formed term for each check -/

theorem test_wf_wrcoef_position_5 : ¬ WellFormed ((.wrcoef 0 0 5 1) : Instr) := by decide
theorem test_wf_rdcoef_position_7 : ¬ WellFormed ((.rdcoef 7 7 7) : Instr) := by decide
theorem test_wf_wrcoef_position_4 : WellFormed ((.wrcoef 7 7 4 1) : Instr) := by decide

/-! ### Decoding: words written bit by bit from 30_encoding.md R92, R93 -/

-- WRCOEF: rw 1, zero 000, region 000, c 011, s 101, k 010 (A20)
theorem test_decode_wrcoef : decode (⟨0b1000000011101010, 77⟩ : Transaction) = .ok (.wrcoef 3 5 2 77) := by rfl
-- the reserved slot k = 5 matches the row and is kept apart by the meaning (A21)
theorem test_decode_wrcoef_slot_5 : decode (⟨0x8005, 9⟩ : Transaction) = .ok (.wrcoef 0 0 5 9) := by rfl
-- RDCOEF: rw 0, region 000, c 111, s 111, k 100 (A3)
theorem test_decode_rdcoef : decode (⟨0b0000000111111100, 0⟩ : Transaction) = .ok (.rdcoef 7 7 4) := by rfl
-- RDHIST: region 00100, c 010, s 110, j 1 (A6)
theorem test_decode_rdhist : decode (⟨0b0000001000101101, 0⟩ : Transaction) = .ok (.rdhist 2 6 1) := by rfl
-- WRIN: rw 1, region 0011, c 100, n 10001 (A9)
theorem test_decode_wrin : decode (⟨0b1000001110010001, 5⟩ : Transaction) = .ok (.wrin 4 17 5) := by rfl
-- RDIN: region 0011, c 111, n 11111 (A10)
theorem test_decode_rdin : decode (⟨0b0000001111111111, 0⟩ : Transaction) = .ok (.rdin 7 31) := by rfl
-- RDOUT: region 0100, c 001, n 00010 (A11)
theorem test_decode_rdout : decode (⟨0b0000010000100010, 0⟩ : Transaction) = .ok (.rdout 1 2) := by rfl
-- the four control registers: region 0101000000, r 00 to 11 (A13 to A16)
theorem test_decode_rdcmd : decode (⟨0b0000010100000000, 0⟩ : Transaction) = .ok .rdcmd := by rfl
theorem test_decode_rdstat : decode (⟨0b0000010100000001, 0⟩ : Transaction) = .ok .rdstat := by rfl
theorem test_decode_rdcfg : decode (⟨0b0000010100000010, 0⟩ : Transaction) = .ok .rdcfg := by rfl
theorem test_decode_rdwidth : decode (⟨0b0000010100000011, 0⟩ : Transaction) = .ok .rdwidth := by rfl
-- the commands: C 3 bits, S 3 bits, OP 4 bits (M1 to M10)
theorem test_decode_nop : decode (⟨0x8500, 0b0000000000⟩ : Transaction) = .ok .nop := by rfl
theorem test_decode_start : decode (⟨0x8500, 0b0000000001⟩ : Transaction) = .ok .start := by rfl
theorem test_decode_inits : decode (⟨0x8500, 0b0101100010⟩ : Transaction) = .ok (.inits 2 6) := by rfl
theorem test_decode_initc : decode (⟨0x8500, 0b0110000011⟩ : Transaction) = .ok (.initc 3) := by rfl
theorem test_decode_inita : decode (⟨0x8500, 0b0000000100⟩ : Transaction) = .ok .inita := by rfl
theorem test_decode_clrerr : decode (⟨0x8500, 0b0000000101⟩ : Transaction) = .ok .clrerr := by rfl
-- M11 to M17: reserved opcode, unused S or C set, bit 10 and bit 31 set
theorem test_reject_opcode_6 : decode (⟨0x8500, 0x006⟩ : Transaction) = .error .malformedCommand := by rfl
theorem test_reject_start_with_s : decode (⟨0x8500, 0x011⟩ : Transaction) = .error .malformedCommand := by rfl
theorem test_reject_initc_with_s : decode (⟨0x8500, 0x013⟩ : Transaction) = .error .malformedCommand := by rfl
theorem test_reject_inita_with_c : decode (⟨0x8500, 0x084⟩ : Transaction) = .error .malformedCommand := by rfl
theorem test_reject_nop_bit_10 : decode (⟨0x8500, 0x400⟩ : Transaction) = .error .malformedCommand := by rfl
theorem test_reject_inits_bit_31 : decode (⟨0x8500, 0x80000002⟩ : Transaction) = .error .malformedCommand := by rfl
-- A24, A27, A25, A28, A29
theorem test_reject_write_hist : decode (⟨0x822D, 5⟩ : Transaction) = .error .readOnlyLocation := by rfl
theorem test_reject_write_outbuf : decode (⟨0x8422, 5⟩ : Transaction) = .error .readOnlyLocation := by rfl
theorem test_reject_gap : decode (⟨0x0280, 0⟩ : Transaction) = .error .reservedAddress := by rfl
theorem test_reject_top : decode (⟨0x8FFF, 0⟩ : Transaction) = .error .reservedAddress := by rfl
theorem test_reject_header_bits : decode (⟨0x9000, 0⟩ : Transaction) = .error .notATransaction := by rfl

/-- The rows of the opcode map carry the table's mnemonics, one each. -/
theorem test_rows_named : (opcodeRows : List OpRow).map OpRow.mnemonic =
    ["WRCOEF", "RDCOEF", "RDHIST", "WRIN", "RDIN", "RDOUT", "RDCMD", "RDSTAT", "RDCFG", "RDWIDTH",
      "NOP", "START", "INITS", "INITC", "INITA", "CLRERR"] := by rfl

/-! ### Encoding: the examples of the rules -/

-- R171: WRCOEF 3, 2, a1, -1 is header 0x80D3; R174: WRIN 0, 1, 5 is header 0x8301
theorem test_encode_wrcoef : encode (.wrcoef 3 2 3 0xFFFFFFFF) = (⟨0x80D3, 0xFFFFFFFF⟩ : Transaction) := by decide
theorem test_encode_wrin : encode (.wrin 0 1 5) = (⟨0x8301, 5⟩ : Transaction) := by decide
-- R173: RDHIST 3, 2, s1 is header 0x0234; R194: INITS 7, 7 is the command word 0x3F2
theorem test_encode_rdhist : encode (.rdhist 3 2 0) = (⟨0x0234, 0⟩ : Transaction) := by decide
theorem test_encode_inits : encode (.inits 7 7) = (⟨0x8500, 0x3F2⟩ : Transaction) := by decide

/-! ### The accesses -/

-- R171, R172: after WRCOEF 3, 2, a1, -1 the register reads -1
theorem test_wrcoef : (after (exec (.wrcoef 3 2 3 0xFFFFFFFF) quiet)).map (fun τ => τ.coefAt 3 2 3)
    = some 0xFFFFFFFF := by rfl
-- E12: a write of slot 5 is E_ADDR
theorem test_wrcoef_slot_5 : statusAfter ⟨0x8005, 9⟩ quiet = some 0x14 := by rfl
theorem test_rdcoef : replyAfter ⟨0x0000, 0⟩ worked.endRun = some 2 := by rfl
-- E7 and R183: refused while busy, a RD returning 0
theorem test_rdcoef_busy : replyAfter ⟨0x0000, 0⟩ worked = some 0 := by rfl
theorem test_rdhist_busy : statusAfter ⟨0x0200, 0⟩ running = some 0x35 := by rfl
theorem test_wrin : (after (exec (.wrin 4 17 5) quiet)).map (fun τ => τ.inbufAt 4 17) = some 5 := by rfl
theorem test_rdin : replyAfter ⟨0x0301, 0⟩ worked.endRun = some 5 := by rfl
-- E11: a busy read of OUTBUF
theorem test_rdout_busy : statusAfter ⟨0x0400, 0⟩ running = some 0x35 := by rfl
-- E10: the four control reads succeed while busy
theorem test_rdcmd : replyAfter ⟨0x0500, 0⟩ running = some 0 := by rfl
theorem test_rdstat : replyAfter ⟨0x0501, 0⟩ running = some 0x01 := by rfl
theorem test_rdcfg : replyAfter ⟨0x0502, 0⟩ running = some 0x2088 := by rfl
theorem test_rdwidth : replyAfter ⟨0x0503, 0⟩ running = some 0x20 := by rfl

/-! ### The commands -/

theorem test_nop : statusAfter ⟨0x8500, 0⟩ quiet = some 0x00 := by rfl
theorem test_start : statusAfter ⟨0x8500, 1⟩ quiet = some 0x01 := by rfl
-- E9: a second START is refused
theorem test_start_busy : statusAfter ⟨0x8500, 1⟩ running = some 0x35 := by rfl
theorem test_inits : (after (exec (.inits 0 0) (worked.laneStep 0).endRun)).map
    (fun τ => (τ.histAt 0 0 0, τ.histAt 0 0 1)) = some (0, 0) := by rfl
theorem test_initc : (after (exec (.initc 0) (worked.laneStep 0).endRun)).map
    (fun τ => τ.histAt 0 0 1) = some 0 := by rfl
theorem test_initc_other_channel : (after (exec (.initc 1) (worked.laneStep 0).endRun)).map
    (fun τ => τ.histAt 0 0 1) = some 10 := by rfl
-- the neighbour stage, and the same stage of the next channel, keep their history
theorem test_inits_neighbours : (after (exec (.inits 0 1) (worked.laneStep 0).endRun)).map
    (fun τ => τ.histAt 0 0 1) = some 10 := by rfl
theorem test_inita : (after (exec .inita (worked.laneStep 0).endRun)).map
    (fun τ => τ.histAt 0 0 0) = some 0 := by rfl
-- P4 line 6: cleared; P4 line 22: nothing cleared while busy
theorem test_clrerr : statusAfter ⟨0x8500, 5⟩ { quiet with errcode := 2 } = some 0x00 := by rfl
theorem test_clrerr_busy : statusAfter ⟨0x8500, 5⟩ { running with errcode := 3 } = some 0x35 := by rfl

/-! ### Other widths (00_scope.md R7): the narrowest, and one above the default -/

-- 95_test_vectors.md M2 and M5 hold at every width; bit 15 of a 16-bit word and bit 63 of a 64-bit word must be 0
theorem test_width_start : decode (⟨0x8500, 1⟩ : Transaction 16) = .ok .start := by rfl
theorem test_width_inits : decode (⟨0x8500, 0x3F2⟩ : Transaction 64) = .ok (.inits 7 7) := by rfl
theorem test_width_bit_15 : decode (⟨0x8500, 0x8002⟩ : Transaction 16) = .error .malformedCommand := by rfl
theorem test_width_bit_63 :
    decode (⟨0x8500, 0x8000000000000002⟩ : Transaction 64) = .error .malformedCommand := by rfl

/-- The word the port of the machine of width `w` shows after one transaction from reset. -/
def replyAt (w : Nat) (t : Transaction w) : Option (Word w) :=
  match transact t (State.resetAt w) with
  | .next τ => τ.reply
  | .fault _ => none
  | .refused _ => none

-- R180 returns W, R179 the constant, at each width
theorem test_width_rdwidth : (replyAt 16 ⟨0x0503, 0⟩, replyAt 64 ⟨0x0503, 0⟩) = (some 16, some 64) := by rfl
theorem test_width_rdcfg : (replyAt 16 ⟨0x0502, 0⟩, replyAt 64 ⟨0x0502, 0⟩) = (some 0x2088, some 0x2088) := by
  rfl

/-! ### WAIT and RUN: the moves between the polls are open -/

-- with no move after START the first poll sees BUSY; with one move that completes the run, none need see it
theorem test_run_sees_busy : runFrame 0 [] quiet = none := by rfl
theorem test_wait_one_gap :
    (waitIdle [1] { quiet with busy := true, agenda := [.complete] }).map State.statusWord = some 0x02 := by rfl
theorem test_wait_no_gap :
    (waitIdle [] { quiet with busy := true, agenda := [.complete] }).map State.statusWord = none := by rfl

/-! ### Errors (E1 to E13) -/

theorem test_e1 : statusAfter ⟨0x0280, 0⟩ quiet = some 0x14 := by rfl
theorem test_e2 : statusAfter ⟨0x8200, 5⟩ quiet = some 0x24 := by rfl
theorem test_e3 : statusAfter ⟨0x8500, 6⟩ quiet = some 0x44 := by rfl
theorem test_e4 : statusAfter ⟨0x8200, 5⟩ { quiet with errcode := 1 } = some 0x14 := by rfl
theorem test_e5 : statusAfter ⟨0x8200, 1⟩ running = some 0x25 := by rfl
theorem test_e6 : statusAfter ⟨0x07FF, 0⟩ running = some 0x15 := by rfl
theorem test_e8 : statusAfter ⟨0x8500, 6⟩ running = some 0x35 := by rfl
theorem test_e13 : statusAfter ⟨0x8501, 0⟩ quiet = some 0x24 := by rfl
-- T7: completion does not clear an error
theorem test_t7 : ({ quiet with busy := true, errcode := 3 } : State).complete.statusWord = 0x36 := by rfl

/-! ### The engine (V, K and the lane-step trace) -/

theorem test_v4 : biquad (w := 32) ⟨1, 2, 3, 4, 5⟩ ⟨6, 7⟩ 3 = ⟨9, ⟨-23, -36⟩⟩ := by decide
theorem test_v13 : biquad (w := 32)
    ⟨2147483647, 2147483647, 2147483647, 2147483647, 2147483647⟩ ⟨2147483647, 2147483647⟩ 2147483647
    = ⟨0x80000000, ⟨0, 0x80000001⟩⟩ := by decide
theorem test_v14 : biquad (w := 32)
    ⟨0x80000000, 0x80000000, 0x80000000, 0x80000000, 0x80000000⟩ ⟨0x80000000, 0x80000000⟩ 0x80000000
    = ⟨0x80000000, ⟨0x80000000, 0⟩⟩ := by decide
theorem test_v17 : biquad (w := 32) ⟨3, -2, 1, 1, -1⟩ ⟨-50, 25⟩ 100 = ⟨250, ⟨-425, 350⟩⟩ := by decide
theorem test_v25 : biquad (w := 16) ⟨300, 1, 1, 1, 1⟩ ⟨0, 0⟩ 300 = ⟨0x5F90, ⟨0xA19C, 0xA19C⟩⟩ := by
  decide
theorem test_v27 : (biquad (w := 64) ⟨1073741824, 0, 0, 0, 0⟩ ⟨0, 0⟩ 4).y = 0x0000000100000000 := by
  decide

/-- The identity coefficient set. -/
def ident (w : Nat) : CoefSet w := ⟨1, 0, 0, 0, 0⟩

theorem test_k4 : (filterSample (w := 32)
    (((Vector.replicate 8 (ident 32)).set 0 ⟨1, 2, 3, 4, 5⟩).set 1 ⟨3, -2, 1, 1, -1⟩)
    (((Vector.replicate 8 ⟨0, 0⟩).set 0 ⟨6, 7⟩).set 1 ⟨-50, 25⟩) 3).1 = -23 := by decide
theorem test_k5 : (filterSample (w := 32)
    (((Vector.replicate 8 (ident 32)).set 0 ⟨3, -2, 1, 1, -1⟩).set 1 ⟨1, 2, 3, 4, 5⟩)
    (((Vector.replicate 8 ⟨0, 0⟩).set 0 ⟨-50, 25⟩).set 1 ⟨6, 7⟩) 3).1 = -35 := by decide
theorem test_k8 : (filterSample (w := 16) (Vector.replicate 8 ⟨4, 0, 0, 0, 0⟩)
    (Vector.replicate 8 ⟨0, 0⟩) (-7)).1 = 0 := by decide

-- trace, lane 0 step 1: load 10, stage 0 gives 20 and history (10, 10)
theorem test_lane_step_1 : ((worked.laneStep 0).xAt 0, (worked.laneStep 0).histPair 0 0,
    (worked.laneStep 0).posAt 0) = (20, ⟨10, 10⟩, ⟨0, 1⟩) := by decide
-- trace, lane 0 step 8: stage 7 stores OUTBUF[0][0] = 20 and goes to (1, 0)
theorem test_lane_step_8 : ((Channel.laneStep { unitChan with x := 20, pos := ⟨0, 7⟩ }).outbuf[0],
    (Channel.laneStep { unitChan with x := 20, pos := ⟨0, 7⟩ }).pos) = (20, ⟨1, 0⟩) := by decide
-- a host turn placed next is run next, from reset too
theorem test_fetch_from_reset : (after (step (State.reset.withFetchWord 16 0x0503))).bind State.reply
    = some 32 := by rfl
theorem test_table_word : decodeTableWord 16 0x03FF = some (.rdin 7 31) := by decide

/-! ### Witnesses: for every statement with hypotheses, states and operands that meet them

Each theorem `witness_<statement>` meets all the hypotheses of one clause, or of several clauses in turn. -/

/-- Every lane, in channel order, is offered `m` steps. -/
def laneTurnsOf (m : Nat) : List Turn := (List.finRange 8).flatMap fun c => List.replicate m (.lane c)

/-- The sequential reference's own schedule: every lane's 256 steps in turn. -/
def laneTurns : List Turn := laneTurnsOf 256

theorem laneTurnsOf_count (m : Nat) (c : Fin 8) : (laneTurnsOf m).count (.lane c) = m := by
  unfold laneTurnsOf
  revert c
  simp [List.count_replicate, List.finRange, Fin.forall_fin_succ]

theorem laneTurns_count (c : Fin 8) : laneTurns.count (.lane c) = 256 := laneTurnsOf_count 256 c

theorem laneTurns_midRun : ∀ u ∈ laneTurns, midRun u = true := by
  intro u hu
  simp only [laneTurns, laneTurnsOf, List.mem_flatMap, List.mem_replicate] at hu
  obtain ⟨c, _, _, rfl⟩ := hu
  rfl

theorem witness_EncodedInstructionDecodesBack : 16 ≤ Config.W ∧ 16 ≤ 16 := by decide

theorem witness_DecodedTransactionEncodesBack :
    16 ≤ Config.W ∧ decode (⟨0x8500, 0x162⟩ : Transaction) = .ok (.inits 2 6) ∧ (⟨0x8500, 0x162⟩ : Transaction).isWrite = true
      ∧ decode (⟨0x03FF, 0⟩ : Transaction) = .ok (.rdin 7 31) := by decide

theorem witness_OpcodeRowsAreDisjoint :
    ∃ r ∈ (opcodeRows : List OpRow), r.selects ⟨0x8500, 5⟩ = true := by decide

theorem witness_SetHeaderBitsNameNoTransaction :
    slice (0x1000 : Header) 14 12 ≠ 0 ∧ slice (0x7FFF : Header) 14 12 ≠ 0 := by decide

theorem witness_TransactionFollowsTheProcedure :
    16 ≤ Config.W ∧ slice (0x8FFF : Header) 14 12 = 0 ∧ slice (0x0000 : Header) 14 12 = 0 := by decide

-- both ends of each reserved range, and slots 5 and 7 of the first and the last stage
theorem witness_ReservedAddressRaisesAddr :
    16 ≤ Config.W ∧ ∀ h ∈ ([0x0005, 0x81FF, 0x0280, 0x82FF, 0x0504, 0x8FFF] : List Header),
      slice h 14 12 = 0 ∧ reservedAddr (⟨h, 0⟩ : Transaction).addr = true := by
  refine ⟨by decide, ?_⟩
  simp only [List.forall_mem_cons, List.not_mem_nil, false_imp_iff, implies_true, and_true]
  refine ⟨⟨?_, ?_⟩, ⟨?_, ?_⟩, ⟨?_, ?_⟩, ⟨?_, ?_⟩, ⟨?_, ?_⟩, ?_, ?_⟩ <;> rfl

/-- The hypotheses of the statement, of one transaction. -/
def writesReadOnly (t : Transaction) : Prop :=
  slice t.header 14 12 = 0 ∧ t.isWrite = true ∧
    ((0x200 ≤ t.addr ∧ t.addr ≤ 0x27F) ∨ (0x400 ≤ t.addr ∧ t.addr ≤ 0x4FF)
      ∨ t.addr = 0x501 ∨ t.addr = 0x502 ∨ t.addr = 0x503)

-- the ends of HIST, the ends of OUTBUF, and the three control registers
theorem witness_ReadOnlyWriteRaisesRo :
    16 ≤ Config.W ∧ writesReadOnly ⟨0x8200, 5⟩ ∧ writesReadOnly ⟨0x827F, 5⟩ ∧ writesReadOnly ⟨0x8400, 5⟩
      ∧ writesReadOnly ⟨0x84FF, 5⟩ ∧ writesReadOnly ⟨0x8501, 5⟩ ∧ writesReadOnly ⟨0x8502, 5⟩
      ∧ writesReadOnly ⟨0x8503, 5⟩ := by
  refine ⟨by decide, ?_, ?_, ?_, ?_, ?_, ?_, ?_⟩ <;> exact ⟨rfl, rfl, by decide⟩

-- both ends of the reserved opcodes, both ends of the high field, each opcode with an unused field set
theorem witness_MalformedCommandRaisesCmd :
    16 ≤ Config.W ∧ quiet.busy = false ∧ (∀ d ∈ ([6, 15, 0x400, 0x80000000, 0x10, 0x80, 0x11, 0x84, 0x15,
      0x13] : List Word),
      malformedWord d = true) := by
  refine ⟨by decide, rfl, ?_⟩
  simp only [List.forall_mem_cons, List.not_mem_nil, false_imp_iff, implies_true, and_true]
  refine ⟨?_, ?_, ?_, ?_, ?_, ?_, ?_, ?_, ?_, ?_⟩ <;> rfl

-- one transaction for each branch: E_ADDR, E_RO, E_BUSY (a WR and a RD), E_CMD, none
theorem witness_FirstApplicableErrorIsRaised :
    16 ≤ Config.W ∧ running.errcode = 0 ∧ quiet.errcode = 0 ∧ reservedAddr (⟨0x8005, 0⟩ : Transaction).addr = true
      ∧ readOnlyAddr (⟨0x8200, 0⟩ : Transaction).addr = true
      ∧ running.busy = true ∧ (⟨0x8500, 6⟩ : Transaction).isWrite = true
      ∧ (⟨0x04FF, 0⟩ : Transaction).addr < 0x500
      ∧ quiet.busy = false ∧ (⟨0x8500, 6⟩ : Transaction).addr = 0x500
      ∧ malformedWord (⟨0x8500, 6⟩ : Transaction).data = true
      ∧ malformedWord (⟨0x8500, 5⟩ : Transaction).data = false := by decide

/-- An idle engine with `E_RO` recorded, to which `u` is offered next. -/
def marked (u : Turn) : State := { quiet with errcode := 2, agenda := [u] }

theorem witness_ErrorCodeIsSticky :
    (marked (.host ⟨0x0280, 0⟩)).errcode ≠ 0
      ∧ (after (step (marked (.host ⟨0x0280, 0⟩)))).map State.errcode = some 2
      ∧ (after (step (marked (.host ⟨0x8500, 5⟩)))).map State.errcode = some 0
      ∧ decode (⟨0x8500, 5⟩ : Transaction) = .ok .clrerr
      ∧ (after (step (marked .reset))).map State.errcode = some 0 := by
  refine ⟨by decide, by rfl, by rfl, by rfl, by rfl⟩

-- the idle, the busy and the reserved-slot clauses of WRCOEF and RDCOEF, at k = 4 and k = 5
theorem witness_WrcoefWritesOneCoefficient :
    (4 : Fin 8).val < 5 ∧ quiet.busy = false ∧ 5 ≤ (5 : Fin 8).val ∧ running.busy = true := by decide
theorem witness_RdcoefReturnsTheCoefficient :
    (4 : Fin 8).val < 5 ∧ quiet.busy = false ∧ 5 ≤ (5 : Fin 8).val ∧ running.busy = true := by decide
-- the idle and the busy clauses of the other accesses and of the commands
theorem witness_RdhistReturnsTheHistory : quiet.busy = false ∧ running.busy = true := by decide
theorem witness_WrinWritesOneSample : quiet.busy = false ∧ running.busy = true := by decide
theorem witness_RdinReturnsTheInput : quiet.busy = false ∧ running.busy = true := by decide
theorem witness_RdoutReturnsTheOutput : quiet.busy = false ∧ running.busy = true := by decide
theorem witness_NopDoesNothing : quiet.busy = false ∧ running.busy = true := by decide
theorem witness_StartBeginsOneRun : quiet.busy = false ∧ running.busy = true := by decide
theorem witness_InitsZeroesOneStage : quiet.busy = false ∧ running.busy = true := by decide
theorem witness_InitcZeroesOneChannel : quiet.busy = false ∧ running.busy = true := by decide
theorem witness_InitaZeroesAll : quiet.busy = false ∧ running.busy = true := by decide
theorem witness_ClrerrClearsTheCode : quiet.busy = false ∧ running.busy = true := by decide

theorem witness_ControlReadsAnswerAlways : 16 ≤ Config.W ∧ 16 ≤ 16 ∧ 16 ≤ 64 := by decide

theorem witness_ReadsChangeNothing :
    isRead ((.rdout 7 31) : Instr) = true ∧ (after (exec (.rdout 7 31) quiet)).isSome = true
      ∧ quiet.busy = false ∧ WellFormed ((.rdout 7 31) : Instr)
      ∧ isControlRead (.rdstat : Instr) = true ∧ (after (exec .rdstat running)).isSome = true := by
  refine ⟨by decide, by rfl, by decide, by decide, by decide, by rfl⟩

theorem witness_StorageWritesTouchOneWord :
    (after (exec (.wrcoef 7 7 4 1) quiet)).isSome = true ∧ 5 ≤ (7 : Fin 8).val
      ∧ (after (exec (.wrcoef 7 7 7 1) quiet)).isSome = true
      ∧ (after (exec (.wrin 7 31 1) quiet)).isSome = true ∧ running.busy = true
      ∧ (after (exec (.wrin 7 31 1) running)).isSome = true := by
  refine ⟨by rfl, by decide, by rfl, by rfl, by decide, by rfl⟩

theorem witness_CommandsTouchOnlyTheirTarget :
    (after (exec .nop quiet)).isSome = true ∧ (after (exec .start quiet)).isSome = true
      ∧ (after (exec (.inits 7 7) quiet)).isSome = true ∧ (after (exec (.initc 7) quiet)).isSome = true
      ∧ (after (exec .inita quiet)).isSome = true ∧ (after (exec .clrerr running)).isSome = true
      ∧ quiet.busy = false ∧ running.busy = true := by
  refine ⟨by rfl, by rfl, by rfl, by rfl, by rfl, by rfl, by decide, by decide⟩

-- the addresses the frame lets change: those of the named stage, channel, or all, and of no other; each clause
-- has an address that it excludes and one that it keeps
theorem witness_CommandsTouchOnlyTheirTarget_addresses :
    histAddr (7 : Fin 8) (7 : Fin 8) (1 : Fin 2) = 0x27F ∧ histAddr (0 : Fin 8) (0 : Fin 8) (0 : Fin 2) = 0x200
      ∧ (∀ j : Fin 2, 0x22C ≠ histAddr (2 : Fin 8) (5 : Fin 8) j)
      ∧ ∀ (s : Fin 8) (j : Fin 2), 0x230 ≠ histAddr (2 : Fin 8) s j := by decide

theorem witness_BusyRefusesEveryAccess :
    running.busy = true ∧ WellFormed ((.rdcoef 7 7 4) : Instr) ∧ isControlRead ((.rdcoef 7 7 4) : Instr) = false
      ∧ WellFormed (.clrerr : Instr) ∧ isControlRead (.clrerr : Instr) = false := by decide

-- two busy machines that differ in their storage and their lanes and show the host the same
theorem witness_MidFrameStateIsUnobservable :
    16 ≤ Config.W ∧ slice (0x0501 : Header) 14 12 = 0 ∧ running.busy = true ∧ sameFace running (worked.laneStep 0)
      ∧ running.histAt 0 0 0 ≠ (worked.laneStep 0).histAt 0 0 0 := by
  unfold sameFace
  decide

theorem witness_WrapIsTheUniqueResidue :
    0 < 16 ∧ (-(2 ^ 15) : Int) ≤ -32768 ∧ (-32768 : Int) < 2 ^ 15 ∧ (2 ^ 16 : Int) ∣ 32768 - -32768 := by
  decide

theorem witness_BiquadIsTheWrappedRecurrence : 16 ≤ 16 := by decide

-- the zero clause and the identity clause of a cascade
theorem witness_ZeroAndIdentityPassThrough :
    (∀ s : Fin 8, unitChan.hist[s] = { s1 := 0, s2 := 0 }) ∧ unitChan.inbuf[(31 : Fin 32)] = 0
      ∧ ∀ s : Fin 8, unitChan.coef[s] = { b0 := 1, b1 := 0, b2 := 0, a1 := 0, a2 := 0 } := by decide

-- two machines that differ in channel 0 and agree in channels 3 and 5
theorem witness_ChannelsAreIndependent :
    quiet.chan[(3 : Fin 8)].coef = worked.chan[(5 : Fin 8)].coef
      ∧ quiet.chan[(3 : Fin 8)].hist = worked.chan[(5 : Fin 8)].hist
      ∧ quiet.chan[(3 : Fin 8)].inbuf = worked.chan[(5 : Fin 8)].inbuf
      ∧ quiet.chan[(0 : Fin 8)].coef ≠ worked.chan[(0 : Fin 8)].coef := by decide

theorem witness_ZeroInputStaysZero :
    (∀ s j, worked.histAt 7 s j = 0) ∧ (∀ n, worked.inbufAt 7 n = 0) := by decide

-- disabled while idle, disabled at n = 32, enabled at (0, 0) and at (31, 7)
theorem witness_LaneStepIsOneEvaluation :
    ¬(quiet.busy = true ∧ (quiet.posAt 0).n.val ≤ 31)
      ∧ ¬((atPos running 3 ⟨32, 0⟩).busy = true ∧ ((atPos running 3 ⟨32, 0⟩).posAt 3).n.val ≤ 31)
      ∧ (running.posAt 0).n.val < 32 ∧ running.busy = true ∧ (running.posAt 0).s = 0
      ∧ ((atPos running 7 ⟨31, 7⟩).posAt 7).n.val < 32 ∧ (atPos running 7 ⟨31, 7⟩).busy = true
      ∧ ((atPos running 7 ⟨31, 7⟩).posAt 7).s = 7 := by decide

/-- A run just begun whose whole schedule is listed, a refused write among it. -/
def scheduled : State := { worked with agenda := .host ⟨0x8301, 9⟩ :: laneTurns ++ [.complete] }

theorem witness_EveryScheduleGivesTheFrame :
    scheduled.busy = true ∧ (∀ c, scheduled.posAt c = { n := 0, s := 0 })
      ∧ scheduled.agenda = (.host ⟨0x8301, 9⟩ :: laneTurns) ++ [.complete]
      ∧ (∀ u ∈ Turn.host ⟨0x8301, 9⟩ :: laneTurns, midRun u = true)
      ∧ ∀ c, 256 ≤ (Turn.host ⟨0x8301, 9⟩ :: laneTurns).count (.lane c) := by
  refine ⟨rfl, by decide, rfl, ?_, fun c => ?_⟩
  · intro u hu
    rcases List.mem_cons.1 hu with rfl | h
    · rfl
    · exact laneTurns_midRun u h
  · simp [laneTurns_count]

/-- An idle engine that the host starts and whose lanes then take their turns. -/
def toStart : State := { quiet with agenda := .host (encode .start) :: (laneTurns ++ .complete :: []) }

theorem witness_StartToCompletionRunsTheFrame :
    16 ≤ Config.W ∧ toStart.busy = false ∧ toStart.agenda = .host (encode .start) :: (laneTurns ++ .complete :: [])
      ∧ (∀ u ∈ laneTurns, midRun u = true) ∧ ∀ c, 256 ≤ laneTurns.count (.lane c) :=
  ⟨by decide, rfl, rfl, laneTurns_midRun, fun c => (laneTurns_count c).ge⟩

/-- A run whose lanes have all finished. -/
def ended : State := { quiet with busy := true }

-- enabled at the end, not enabled at the start of a run nor while idle
theorem witness_CompletionIsEnabledExactlyAtTheEnd :
    (ended.busy = true ∧ ∀ c, ended.posAt c = { n := 32, s := 0 })
      ∧ ¬(running.busy = true ∧ ∀ c, running.posAt c = { n := 32, s := 0 })
      ∧ ¬(quiet.busy = true ∧ ∀ c, quiet.posAt c = { n := 32, s := 0 }) := by decide

theorem running_inv : running.Inv := ⟨by decide, by decide, by decide, by decide⟩

theorem ended_inv : ended.Inv := ⟨by decide, by decide, by decide, by decide⟩

theorem quiet_inv : quiet.Inv := ⟨by decide, by decide, by decide, by decide⟩

-- all 2048 steps left, and none left
theorem witness_RunEndsByItself :
    running.Inv ∧ running.busy = true ∧ running.agenda = [] ∧ running.stepsLeft = 2048
      ∧ ended.Inv ∧ ended.busy = true ∧ ended.agenda = [] ∧ ended.stepsLeft = 0 :=
  ⟨running_inv, rfl, rfl, by decide, ended_inv, rfl, rfl, by decide⟩

theorem witness_FreeChoiceGivesTheFrame :
    worked.busy = true ∧ (∀ c, worked.posAt c = { n := 0, s := 0 }) ∧ worked.agenda = [] := by decide

-- WAIT of a run just begun, in one gap and in many; WAIT while idle; RUN with all the moves before the first
-- poll, and with all of them after it
theorem witness_WaitTerminates :
    16 ≤ Config.W ∧ running.Inv ∧ running.agenda = [] ∧ running.busy = true ∧ quiet.Inv ∧ quiet.agenda = []
      ∧ 2049 ≤ ([2049] : List Nat).sum ∧ 2049 ≤ ([1000, 0, 1049] : List Nat).sum ∧ quiet.busy = false
      ∧ 2049 ≤ 2049 + ([] : List Nat).sum ∧ 2049 ≤ 0 + ([1, 2048] : List Nat).sum :=
  ⟨by decide, running_inv, rfl, rfl, quiet_inv, rfl, by decide, by decide, rfl, by decide, by decide⟩

theorem witness_EveryStepKeepsTheInvariant :
    (running.issue ⟨0x0501, 0⟩).Inv ∧ (after (step (running.issue ⟨0x0501, 0⟩))).isSome = true :=
  ⟨⟨by decide, by decide, by decide, by decide⟩, by rfl⟩

theorem witness_StepRunsTheDecodedInstruction :
    (quiet.issue ⟨0x80D3, 7⟩).agenda = .host ⟨0x80D3, 7⟩ :: []
      ∧ decode (⟨0x80D3, 7⟩ : Transaction) = .ok (.wrcoef 3 2 3 7) ∧ decodeTableWord 16 0x0501 = some .rdstat := by decide

theorem witness_PollingIsRaceFree :
    quiet.busy = false ∧ running.busy ≠ running.done ∧ (∀ rest, ended.agenda ≠ .reset :: rest)
      ∧ ended.busy ≠ ended.done ∧ (after (takeTurn .complete ended)).map State.done = some true := by
  refine ⟨by decide, by decide, fun rest h => ?_, by decide, by rfl⟩
  exact absurd h (List.cons_ne_nil _ _).symm

-- each way between idle and busy
theorem witness_OnlyStartCompletionAndResetSwitch :
    (after (step (quiet.issue ⟨0x8500, 1⟩))).map State.busy = some true ∧ quiet.busy = false
      ∧ (after (step { ended with agenda := [.complete] })).map State.busy = some false
      ∧ (after (step { running with agenda := [.reset] })).map State.busy = some false
      ∧ running.busy = true := by
  refine ⟨by rfl, by decide, by rfl, by rfl, by decide⟩

theorem witness_OnlyTheHostWritesCoefAndInbuf :
    (after (step (quiet.issue ⟨0x81FC, 9⟩))).map (fun τ => τ.coefAt 7 7 4) = some 9
      ∧ quiet.coefAt 7 7 4 ≠ 9
      ∧ (after (step (quiet.issue ⟨0x83FF, 9⟩))).map (fun τ => τ.inbufAt 7 31) = some 9
      ∧ quiet.inbufAt 7 31 ≠ 9 := by
  refine ⟨by rfl, by decide, by rfl, by decide⟩

/-- An idle engine whose histories are not zero. -/
def stained : State := quiet.modChan 7 fun ch => { ch with hist := ch.hist.set 7 ⟨3, 4⟩ }

-- a lane's step, and an INITS, that change a history; a lane's last stage, that changes an output
theorem witness_OnlyTheEngineWritesHistAndOutbuf :
    (after (step { worked with agenda := [.lane 0] })).map (fun τ => τ.histPair 0 0) = some ⟨10, 10⟩
      ∧ worked.histPair 0 0 ≠ ⟨10, 10⟩
      ∧ (after (step (stained.issue ⟨0x8500, 0x3F2⟩))).map (fun τ => τ.histPair 7 7) = some ⟨0, 0⟩
      ∧ stained.histPair 7 7 ≠ ⟨0, 0⟩
      ∧ ((running.modChan 7 fun ch => { ch with x := 5, pos := ⟨31, 7⟩ }).laneStep 7).outbufAt 7 31 = 5
      ∧ running.outbufAt 7 31 ≠ 5 := by
  refine ⟨by rfl, by decide, by rfl, by decide, by decide, by decide⟩

end Sys2Proof.Tests
end

/-! PROOF. `wrap` picks one integer of the signed range from every residue class (00_scope.md R10): it stays in
the range, it keeps the class, it depends on the class alone, and it fixes the range. -/

namespace Sys2Proof.Machine

variable {w : Nat}

theorem two_pow_eq_two_mul_half (hw : 0 < w) : (2 ^ w : Int) = 2 * 2 ^ (w - 1) :=
  (mul_pow_sub_one hw.ne' 2).symm

theorem neg_half_le_wrap (w : Nat) (z : Int) : -(2 ^ (w - 1)) ≤ wrap w z := by
  have hmod : 0 ≤ (z + 2 ^ (w - 1)) % 2 ^ w := Int.emod_nonneg _ (by positivity)
  unfold wrap
  linarith

theorem wrap_lt_half (hw : 0 < w) (z : Int) : wrap w z < 2 ^ (w - 1) := by
  have hmod : (z + 2 ^ (w - 1)) % 2 ^ w < 2 ^ w := Int.emod_lt_of_pos _ (by positivity)
  have hpow := two_pow_eq_two_mul_half hw
  unfold wrap
  linarith

theorem dvd_sub_wrap (w : Nat) (z : Int) : (2 ^ w : Int) ∣ z - wrap w z := by
  have hsplit : z - wrap w z = z + 2 ^ (w - 1) - (z + 2 ^ (w - 1)) % 2 ^ w := by
    unfold wrap
    ring
  exact hsplit ▸ Int.dvd_self_sub_emod

/-- Congruent integers wrap to the same value. -/
theorem wrap_eq_wrap_of_dvd_sub {y z : Int} (h : (2 ^ w : Int) ∣ z - y) : wrap w y = wrap w z := by
  have hmod : y ≡ z [ZMOD 2 ^ w] := Int.modEq_iff_dvd.mpr h
  exact congrArg (· - 2 ^ (w - 1)) (hmod.add_right (2 ^ (w - 1)))

/-- An integer of the signed range wraps to itself. -/
theorem wrap_eq_self (hw : 0 < w) {y : Int} (hlo : -(2 ^ (w - 1)) ≤ y) (hhi : y < 2 ^ (w - 1)) :
    wrap w y = y := by
  have hpow := two_pow_eq_two_mul_half hw
  have hmod : (y + 2 ^ (w - 1)) % 2 ^ w = y + 2 ^ (w - 1) :=
    Int.emod_eq_of_lt (by linarith) (by linarith)
  rw [wrap, hmod, add_sub_cancel_right]

/-- Settles O34: a `y` of the range wraps to itself, and, being congruent to `z`, wraps to `wrap w z`. -/
theorem wrapIsTheUniqueResidue : Obligations.WrapIsTheUniqueResidue := by
  intro w z hw
  refine ⟨⟨neg_half_le_wrap w z, wrap_lt_half hw z, dvd_sub_wrap w z⟩, ?_⟩
  intro y hlo hhi hdvd
  calc y = wrap w y := (wrap_eq_self hw hlo hhi).symm
    _ = wrap w z := wrap_eq_wrap_of_dvd_sub hdvd

end Sys2Proof.Machine

/-! PROOF. What one step can do to the engine, said once: `HostMove` lists what a host transaction leaves and
`Move` what any turn leaves, the model's own fields `agenda` and `turn` apart. The claims about what every step
keeps (10_state.md R21 to R35) are case analyses of these two. -/

namespace Sys2Proof.Machine

variable {w : Nat}

/-- What the transaction `t` can leave of the engine `σ`: an error, an answer, or, while idle, the effect of the
instruction it decodes to (43_host_access.md R170, 44_commands.md R190). -/
inductive HostMove (t : Transaction w) (σ : State w) : State w → Prop
  | raise (e : Err) : HostMove t σ (σ.raise e)
  | raiseRead (e : Err) : HostMove t σ (σ.raiseRead e)
  | answer (v : Word w) : HostMove t σ (σ.answer v)
  | wrcoef (c s k' : Fin 8) (k : Fin 5) (v : Word w) (idle : σ.busy = false)
      (decodes : decode t = .ok (.wrcoef c s k' v)) (position : k'.val = k.val) :
      HostMove t σ (σ.setCoef c s k v)
  | wrin (c : Fin 8) (n : Fin 32) (v : Word w) (idle : σ.busy = false)
      (decodes : decode t = .ok (.wrin c n v)) : HostMove t σ (σ.setInbuf c n v)
  | nop : HostMove t σ σ
  | start (idle : σ.busy = false) (decodes : decode t = .ok .start) : HostMove t σ σ.beginRun
  | inits (c s : Fin 8) (idle : σ.busy = false) (decodes : decode t = .ok (.inits c s)) :
      HostMove t σ (σ.zeroStage c s)
  | initc (c : Fin 8) (idle : σ.busy = false) (decodes : decode t = .ok (.initc c)) :
      HostMove t σ (σ.zeroChannel c)
  | inita (idle : σ.busy = false) (decodes : decode t = .ok .inita) : HostMove t σ σ.zeroAll
  | clrerr (idle : σ.busy = false) (decodes : decode t = .ok .clrerr) : HostMove t σ σ.clearError

theorem hostMove_of_transact {σ τ : State w} {t : Transaction w} (h : transact t σ = .next τ) :
    HostMove t σ τ := by
  obtain ⟨e, rfl⟩ | ⟨e, rfl⟩ | ⟨i, hd, hi⟩ := transact_next σ h
  · exact .raise e
  · exact .raiseRead e
  obtain ⟨e, rfl⟩ | ⟨e, rfl⟩ | ⟨v, rfl⟩ | ⟨idle, effect⟩ := perform_cases σ hi
  · exact .raise e
  · exact .raiseRead e
  · exact .answer v
  obtain ⟨c, s, k, k', v, rfl, hk, rfl⟩ | ⟨c, n, v, rfl, rfl⟩ | ⟨rfl, rfl⟩ | ⟨rfl, rfl⟩ | ⟨c, s, rfl, rfl⟩
    | ⟨c, rfl, rfl⟩ | ⟨rfl, rfl⟩ | ⟨rfl, rfl⟩ := effect
  · exact .wrcoef c s k' k v idle hd hk
  · exact .wrin c n v idle hd
  · exact .nop
  · exact .start idle hd
  · exact .inits c s idle hd
  · exact .initc c idle hd
  · exact .inita idle hd
  · exact .clrerr idle hd

/-- What the first turn of `turns`, or the engine's own move where there is none, can leave of `σ`. -/
inductive Move (turns : List (Turn w)) (σ : State w) : State w → Prop
  | pass : Move turns σ σ
  | lane (c : Fin 8) (busy : σ.busy = true) (unfinished : (σ.posAt c).n.val ≤ 31) :
      Move turns σ (σ.modChan c Channel.laneStep)
  | complete (busy : σ.busy = true) (finished : ∀ c, σ.posAt c = Pos.finished) : Move turns σ σ.endRun
  | reset (rest : List (Turn w)) (next : turns = .reset :: rest) : Move turns σ σ.resetEvent
  | host (t : Transaction w) (rest : List (Turn w)) (τ : State w) (next : turns = .host t :: rest)
      (effect : HostMove t σ τ) : Move turns σ τ

theorem move_of_laneStep (turns : List (Turn w)) (σ : State w) (c : Fin 8) : Move turns σ (σ.laneStep c) := by
  obtain ⟨busy, unfinished, h⟩ | ⟨-, h⟩ := laneStep_cases σ c <;> rw [h]
  · exact .lane c busy unfinished
  · exact .pass

theorem move_of_complete (turns : List (Turn w)) (σ : State w) : Move turns σ σ.complete := by
  obtain ⟨busy, finished, h⟩ | ⟨-, h⟩ := complete_cases σ <;> rw [h]
  · exact .complete busy finished
  · exact .pass

theorem move_of_runAlone (turns : List (Turn w)) (σ : State w) :
    ∃ ρ n, Move turns σ ρ ∧ σ.runAlone = { ρ with turn := n } := by
  obtain ⟨-, h⟩ | ⟨busy, c, unfinished, h⟩ | ⟨-, -, h⟩ := runAlone_cases σ <;> rw [h]
  · exact ⟨σ, σ.turn, .pass, rfl⟩
  · exact ⟨_, _, .lane c busy unfinished, rfl⟩
  · exact ⟨_, _, move_of_complete turns σ, rfl⟩

/-- Every step is a move of the engine; beside it only the model's own `agenda` and `turn` change. -/
theorem move_of_nextTurn {σ τ : State w} (h : nextTurn σ = .next τ) :
    ∃ rest ρ n, Move σ.agenda { σ with agenda := rest } ρ ∧ τ = { ρ with turn := n } := by
  obtain ⟨-, rfl⟩ | ⟨t, rest, next, ht⟩ | ⟨c, rest, -, rfl⟩ | ⟨rest, -, rfl⟩ | ⟨rest, next, rfl⟩ :=
    nextTurn_cases σ h
  · exact ⟨σ.agenda, move_of_runAlone σ.agenda σ⟩
  · exact ⟨rest, τ, τ.turn, .host t rest τ next (hostMove_of_transact ht), rfl⟩
  · exact ⟨rest, _, _, move_of_laneStep _ _ c, rfl⟩
  · exact ⟨rest, _, _, move_of_complete _ _, rfl⟩
  · exact ⟨rest, _, _, .reset rest next, rfl⟩

end Sys2Proof.Machine

/-! PROOF. The invariant of 10_state.md R29, R32 and R35 holds after reset and every move keeps it. -/

namespace Sys2Proof.Machine

variable {w : Nat}

/-- The invariant speaks of the status fields and the positions alone. -/
theorem inv_of_same_run {σ τ : State w} (h : σ.Inv) (busy : τ.busy = σ.busy) (done : τ.done = σ.done)
    (pos : ∀ c, τ.posAt c = σ.posAt c) (code : τ.errcode.toNat ≤ 4) : τ.Inv where
  exclusive := by rw [busy, done]; exact h.exclusive
  code := code
  lanes := by simpa only [busy, pos] using h.lanes
  finished := by simpa only [done, pos] using h.finished

/-- An engine that neither runs nor has run, with no error, meets the invariant wherever its lanes stand. -/
theorem inv_of_cleared {σ : State w} (busy : σ.busy = false) (done : σ.done = false) (code : σ.errcode = 0) :
    σ.Inv where
  exclusive := by simp [busy]
  code := by simp [code]
  lanes := by simp [busy]
  finished := by simp [done]

theorem raise_code_le {σ : State w} (h : σ.errcode.toNat ≤ 4) (e : Err) : (σ.raise e).errcode.toNat ≤ 4 := by
  obtain ⟨-, hr⟩ | ⟨-, hr⟩ := raise_cases σ e <;> rw [hr]
  · exact err_code_le e
  · exact h

theorem inv_beginRun {σ : State w} (h : σ.Inv) : σ.beginRun.Inv where
  exclusive := by simp
  code := h.code
  lanes := by simp [Pos.first]
  finished := by simp

theorem inv_endRun {σ : State w} (h : σ.Inv) (finished : ∀ c, σ.posAt c = Pos.finished) : σ.endRun.Inv where
  exclusive := by simp
  code := h.code
  lanes := by simp
  finished := by simpa using finished

theorem inv_hostMove {σ τ : State w} {t : Transaction w} (h : σ.Inv) (m : HostMove t σ τ) : τ.Inv := by
  cases m with
  | raise e => exact inv_of_same_run h (by simp) (by simp) (by simp) (raise_code_le h.code e)
  | raiseRead e => exact inv_of_same_run h (by simp) (by simp) (by simp) (raise_code_le h.code e)
  | answer v => exact inv_of_same_run h rfl rfl (by simp) h.code
  | wrcoef c s k' k v => exact inv_of_same_run h rfl rfl (by simp) h.code
  | wrin c n v => exact inv_of_same_run h rfl rfl (by simp) h.code
  | nop => exact h
  | start => exact inv_beginRun h
  | inits c s => exact inv_of_same_run h rfl rfl (by simp) h.code
  | initc c => exact inv_of_same_run h rfl rfl (by simp) h.code
  | inita => exact inv_of_same_run h rfl rfl (by simp) h.code
  | clrerr => exact inv_of_same_run h rfl rfl (by simp) (by simp)

theorem modChan_posAt (σ : State w) (c d : Fin 8) (f : Channel w → Channel w) :
    (σ.modChan c f).posAt d = if c = d then (f σ.chan[c.val]).pos else σ.posAt d := by
  unfold State.posAt
  simp only [Fin.getElem_fin, modChan_chan]
  split <;> rfl

/-- A lane's step never leaves the lane past `(32, 0)` (10_state.md R29). -/
theorem chLaneStep_pos_legal (ch : Channel w) (h : ch.pos.n.val < 32) (hn : ch.laneStep.pos.n.val = 32) :
    ch.laneStep.pos.s.val = 0 := by
  rw [chLaneStep_pos ch h] at hn ⊢
  by_cases last : ch.pos.s = 7
  · rw [if_pos last]; rfl
  · rw [if_neg last] at hn
    exact absurd hn h.ne

theorem inv_lane {σ : State w} (h : σ.Inv) (c : Fin 8) (busy : σ.busy = true)
    (unfinished : (σ.posAt c).n.val ≤ 31) : (σ.modChan c Channel.laneStep).Inv where
  exclusive := h.exclusive
  code := h.code
  lanes := by
    intro _ d hd
    rw [modChan_posAt] at hd ⊢
    by_cases same : c = d
    · rw [if_pos same] at hd ⊢
      exact chLaneStep_pos_legal _ (Nat.lt_succ_of_le unfinished) hd
    · rw [if_neg same] at hd ⊢
      exact h.lanes busy d hd
  finished := fun done => absurd ⟨busy, done⟩ h.exclusive

theorem inv_move {turns : List (Turn w)} {σ τ : State w} (h : σ.Inv) (m : Move turns σ τ) : τ.Inv := by
  cases m with
  | pass => exact h
  | lane c busy unfinished => exact inv_lane h c busy unfinished
  | complete _ finished => exact inv_endRun h finished
  | reset => exact inv_of_cleared rfl rfl rfl
  | host t rest _ _ effect => exact inv_hostMove h effect

theorem inv_nextTurn {σ τ : State w} (h : σ.Inv) (hn : nextTurn σ = .next τ) : τ.Inv := by
  obtain ⟨rest, ρ, n, m, rfl⟩ := move_of_nextTurn hn
  have popped : State.Inv { σ with agenda := rest } := inv_of_same_run h rfl rfl (fun _ => rfl) h.code
  have moved : ρ.Inv := inv_move popped m
  exact inv_of_same_run moved rfl rfl (fun _ => rfl) moved.code

/-- Settles O55: every move keeps the invariant, and the step of the default width is `nextTurn`. -/
theorem everyStepKeepsTheInvariant : Obligations.EveryStepKeepsTheInvariant :=
  ⟨fun _ _ h hs => inv_nextTurn h hs, fun _ _ _ h hn => inv_nextTurn h hn⟩

/-- Settles O54: reset leaves a cleared engine. -/
theorem resetMeetsTheInvariant : Obligations.ResetMeetsTheInvariant := inv_of_cleared rfl rfl rfl

end Sys2Proof.Machine

/-! PROOF. Who writes which word: the host alone `COEF` and `INBUF` (10_state.md R21, R26), the engine alone
`OUTBUF` (R27), and `HIST` a BIQUAD of that stage or an INIT that names it (R23). -/

namespace Sys2Proof.Machine

variable {w : Nat}

/-! ### The words a host transaction leaves -/

theorem hostMove_coefAt {σ τ : State w} {t : Transaction w} (m : HostMove t σ τ) {c s : Fin 8} {k : Fin 5}
    (changed : τ.coefAt c s k ≠ σ.coefAt c s k) :
    σ.busy = false ∧ ∃ k' v, decode t = .ok (.wrcoef c s k' v) ∧ k'.val = k.val ∧ τ.coefAt c s k = v := by
  cases m with
  | wrcoef d u l' l v idle decodes position =>
    rw [setCoef_coefAt] at changed ⊢
    by_cases same : d = c ∧ u = s ∧ l = k
    · obtain ⟨rfl, rfl, rfl⟩ := same
      exact ⟨idle, l', v, decodes, position, if_pos ⟨rfl, rfl, rfl⟩⟩
    · exact absurd (if_neg same) changed
  | _ => simp at changed

theorem hostMove_inbufAt {σ τ : State w} {t : Transaction w} (m : HostMove t σ τ) {c : Fin 8} {n : Fin 32}
    (changed : τ.inbufAt c n ≠ σ.inbufAt c n) :
    σ.busy = false ∧ ∃ v, decode t = .ok (.wrin c n v) ∧ τ.inbufAt c n = v := by
  cases m with
  | wrin d l v idle decodes =>
    rw [setInbuf_inbufAt] at changed ⊢
    by_cases same : d = c ∧ l = n
    · obtain ⟨rfl, rfl⟩ := same
      exact ⟨idle, v, decodes, if_pos ⟨rfl, rfl⟩⟩
    · exact absurd (if_neg same) changed
  | _ => simp at changed

theorem hostMove_histPair {σ τ : State w} {t : Transaction w} (m : HostMove t σ τ) {c s : Fin 8}
    (changed : τ.histPair c s ≠ σ.histPair c s) :
    σ.busy = false ∧ τ.histPair c s = History.zero w
      ∧ (decode t = .ok (.inits c s) ∨ decode t = .ok (.initc c) ∨ decode t = .ok .inita) := by
  cases m with
  | inits d u idle decodes =>
    rw [zeroStage_histPair] at changed ⊢
    by_cases same : d = c ∧ u = s
    · obtain ⟨rfl, rfl⟩ := same
      exact ⟨idle, if_pos ⟨rfl, rfl⟩, .inl decodes⟩
    · exact absurd (if_neg same) changed
  | initc d idle decodes =>
    rw [zeroChannel_histPair] at changed ⊢
    by_cases same : d = c
    · subst same
      exact ⟨idle, if_pos rfl, .inr (.inl decodes)⟩
    · exact absurd (if_neg same) changed
  | inita idle decodes => exact ⟨idle, zeroAll_histPair σ c s, .inr (.inr decodes)⟩
  | _ => simp at changed

theorem hostMove_outbufAt {σ τ : State w} {t : Transaction w} (m : HostMove t σ τ) (c : Fin 8) (n : Fin 32) :
    τ.outbufAt c n = σ.outbufAt c n := by
  cases m <;> simp

/-! ### The words a lane's step leaves -/

theorem lane_coefAt (σ : State w) (d c s : Fin 8) (k : Fin 5) :
    (σ.modChan d Channel.laneStep).coefAt c s k = σ.coefAt c s k := by
  by_cases h : d = c
  · subst h; simp [State.coefAt]
  · simp [State.coefAt, modChan_chan_other _ h]

theorem lane_inbufAt (σ : State w) (d c : Fin 8) (n : Fin 32) :
    (σ.modChan d Channel.laneStep).inbufAt c n = σ.inbufAt c n := by
  by_cases h : d = c
  · subst h; simp [State.inbufAt]
  · simp [State.inbufAt, modChan_chan_other _ h]

/-- A lane that has a step moves on. -/
theorem lane_posAt_ne (σ : State w) {c : Fin 8} (unfinished : (σ.posAt c).n.val ≤ 31) :
    (σ.modChan c Channel.laneStep).posAt c ≠ σ.posAt c := by
  rw [modChan_posAt, if_pos rfl]
  exact chLaneStep_pos_ne _ (Nat.lt_succ_of_le unfinished)

theorem lane_histPair (σ : State w) {d c s : Fin 8} (unfinished : (σ.posAt d).n.val ≤ 31)
    (changed : (σ.modChan d Channel.laneStep).histPair c s ≠ σ.histPair c s) :
    d = c ∧ (σ.posAt c).s = s := by
  by_cases h : d = c
  · subst h
    refine ⟨rfl, ?_⟩
    by_contra other
    refine changed ?_
    simpa [State.histPair] using chLaneStep_hist_other _ (Nat.lt_succ_of_le unfinished) other
  · simp [State.histPair, modChan_chan_other _ h] at changed

theorem lane_outbufAt (σ : State w) {d c : Fin 8} {n : Fin 32} (unfinished : (σ.posAt d).n.val ≤ 31)
    (changed : (σ.modChan d Channel.laneStep).outbufAt c n ≠ σ.outbufAt c n) :
    d = c ∧ (σ.posAt c).n.val = n.val ∧ (σ.posAt c).s = 7 := by
  by_cases h : d = c
  · subst h
    refine ⟨rfl, ?_⟩
    by_contra other
    refine changed ?_
    simpa [State.outbufAt] using chLaneStep_outbuf_other _ (Nat.lt_succ_of_le unfinished) other
  · simp [State.outbufAt, modChan_chan_other _ h] at changed

/-! ### The words a move leaves -/

theorem move_coefAt {turns : List (Turn w)} {σ τ : State w} (m : Move turns σ τ) {c s : Fin 8} {k : Fin 5}
    (changed : τ.coefAt c s k ≠ σ.coefAt c s k) :
    (∃ rest, turns = .reset :: rest)
      ∨ (σ.busy = false ∧ ∃ t rest k' v, turns = .host t :: rest
          ∧ decode t = .ok (.wrcoef c s k' v) ∧ k'.val = k.val ∧ τ.coefAt c s k = v) := by
  cases m with
  | pass => exact absurd rfl changed
  | lane d => exact absurd (lane_coefAt σ d c s k) changed
  | complete => exact absurd (endRun_coefAt σ c s k) changed
  | reset rest next => exact .inl ⟨rest, next⟩
  | host t rest _ next effect =>
    obtain ⟨idle, k', v, named⟩ := hostMove_coefAt effect changed
    exact .inr ⟨idle, t, rest, k', v, next, named⟩

theorem move_inbufAt {turns : List (Turn w)} {σ τ : State w} (m : Move turns σ τ) {c : Fin 8} {n : Fin 32}
    (changed : τ.inbufAt c n ≠ σ.inbufAt c n) :
    (∃ rest, turns = .reset :: rest)
      ∨ (σ.busy = false ∧ ∃ t rest v, turns = .host t :: rest
          ∧ decode t = .ok (.wrin c n v) ∧ τ.inbufAt c n = v) := by
  cases m with
  | pass => exact absurd rfl changed
  | lane d => exact absurd (lane_inbufAt σ d c n) changed
  | complete => exact absurd (endRun_inbufAt σ c n) changed
  | reset rest next => exact .inl ⟨rest, next⟩
  | host t rest _ next effect =>
    obtain ⟨idle, v, named⟩ := hostMove_inbufAt effect changed
    exact .inr ⟨idle, t, rest, v, next, named⟩

theorem move_histPair {turns : List (Turn w)} {σ τ : State w} (m : Move turns σ τ) {c s : Fin 8}
    (changed : τ.histPair c s ≠ σ.histPair c s) :
    (∃ rest, turns = .reset :: rest)
      ∨ (σ.busy = true ∧ (σ.posAt c).s = s ∧ (σ.posAt c).n.val ≤ 31 ∧ τ.posAt c ≠ σ.posAt c)
      ∨ (σ.busy = false ∧ τ.histPair c s = History.zero w ∧ ∃ t rest, turns = .host t :: rest
          ∧ (decode t = .ok (.inits c s) ∨ decode t = .ok (.initc c) ∨ decode t = .ok .inita)) := by
  cases m with
  | pass => exact absurd rfl changed
  | lane d busy unfinished =>
    obtain ⟨rfl, stage⟩ := lane_histPair σ unfinished changed
    exact .inr (.inl ⟨busy, stage, unfinished, lane_posAt_ne σ unfinished⟩)
  | complete => exact absurd (endRun_histPair σ c s) changed
  | reset rest next => exact .inl ⟨rest, next⟩
  | host t rest _ next effect =>
    obtain ⟨idle, zeroed, named⟩ := hostMove_histPair effect changed
    exact .inr (.inr ⟨idle, zeroed, t, rest, next, named⟩)

theorem move_outbufAt {turns : List (Turn w)} {σ τ : State w} (m : Move turns σ τ) {c : Fin 8} {n : Fin 32}
    (changed : τ.outbufAt c n ≠ σ.outbufAt c n) :
    (∃ rest, turns = .reset :: rest)
      ∨ (σ.busy = true ∧ (σ.posAt c).n.val = n.val ∧ (σ.posAt c).s = 7 ∧ τ.posAt c ≠ σ.posAt c) := by
  cases m with
  | pass => exact absurd rfl changed
  | lane d busy unfinished =>
    obtain ⟨rfl, sample, stage⟩ := lane_outbufAt σ unfinished changed
    exact .inr ⟨busy, sample, stage, lane_posAt_ne σ unfinished⟩
  | complete => exact absurd (endRun_outbufAt σ c n) changed
  | reset rest next => exact .inl ⟨rest, next⟩
  | host t rest _ _ effect => exact absurd (hostMove_outbufAt effect c n) changed

/-- Settles O59: of the moves only an accepted write and a reset change a coefficient or an input word. -/
theorem onlyTheHostWritesCoefAndInbuf : Obligations.OnlyTheHostWritesCoefAndInbuf := by
  intro w σ τ h
  obtain ⟨rest, ρ, n, m, rfl⟩ := move_of_nextTurn h
  exact ⟨fun _ _ _ changed => move_coefAt m changed, fun _ _ changed => move_inbufAt m changed⟩

/-- Settles O60: of the moves only a lane's step, an INIT and a reset change a history, and only a lane's last
stage and a reset an output word. -/
theorem onlyTheEngineWritesHistAndOutbuf : Obligations.OnlyTheEngineWritesHistAndOutbuf := by
  intro w σ τ h
  obtain ⟨rest, ρ, n, m, rfl⟩ := move_of_nextTurn h
  exact ⟨fun _ _ changed => move_histPair m changed, fun _ _ changed => move_outbufAt m changed⟩

end Sys2Proof.Machine

/-! PROOF. A busy engine answers a transaction from the status fields alone (60_exceptions.md R218, 10_state.md
R35): what a transaction does to it is one of four functions, fixed by the transaction. -/

namespace Sys2Proof.Machine

open Host (Outcome)

variable {w : Nat}

/-- What a transaction can do to a busy engine: an error, a constant, or the status word. -/
inductive BusyEffect : (State w → State w) → Prop
  | raise (e : Err) : BusyEffect fun σ => σ.raise e
  | raiseRead (e : Err) : BusyEffect fun σ => σ.raiseRead e
  | answer (v : Word w) : BusyEffect fun σ => σ.answer v
  | status : BusyEffect fun σ => σ.answer σ.statusWord

/-- The meaning `m` acts on every busy engine as one of those functions. -/
def UniformWhileBusy (m : State w → Outcome (State w) Fault Refusal) : Prop :=
  ∃ f, BusyEffect f ∧ ∀ σ : State w, σ.busy = true → m σ = .next (f σ)

theorem idleWrite_uniform (g : State w → State w) : UniformWhileBusy fun σ => .next (σ.idleWrite g) :=
  ⟨_, .raise .busy, fun σ busy => congrArg _ (idleWrite_busy σ busy)⟩

theorem idleRead_uniform (v : State w → Word w) : UniformWhileBusy fun σ => .next (σ.idleRead v) :=
  ⟨_, .raiseRead .busy, fun σ busy => congrArg _ (idleRead_busy σ busy)⟩

theorem refuse_uniform (t : Transaction w) (e : Err) : UniformWhileBusy fun σ => .next (σ.refuse t e) := by
  cases hw : t.isWrite with
  | true => exact ⟨_, .raise e, fun σ _ => by simp [State.refuse, hw]⟩
  | false => exact ⟨_, .raiseRead e, fun σ _ => by simp [State.refuse, hw]⟩

theorem perform_uniform (i : Instr w) : UniformWhileBusy (perform i) := by
  cases i with
  | wrcoef c s k v =>
    by_cases h : k.val < 5
    · have meaning : perform (.wrcoef c s k v)
          = fun σ => .next (σ.idleWrite fun σ => σ.setCoef c s ⟨k.val, h⟩ v) := funext fun _ => dif_pos h
      exact meaning ▸ idleWrite_uniform _
    · exact ⟨_, .raise .addr, fun _ _ => dif_neg h⟩
  | rdcoef c s k =>
    by_cases h : k.val < 5
    · have meaning : perform (.rdcoef c s k)
          = fun σ : State w => .next (σ.idleRead fun σ => σ.coefAt c s ⟨k.val, h⟩) := funext fun _ => dif_pos h
      exact meaning ▸ idleRead_uniform _
    · exact ⟨_, .raiseRead .addr, fun _ _ => dif_neg h⟩
  | rdhist => exact idleRead_uniform _
  | wrin => exact idleWrite_uniform _
  | rdin => exact idleRead_uniform _
  | rdout => exact idleRead_uniform _
  | rdcmd => exact ⟨_, .answer 0, fun _ _ => rfl⟩
  | rdstat => exact ⟨_, .status, fun _ _ => rfl⟩
  | rdcfg => exact ⟨_, .answer (Config.configWord w), fun _ _ => rfl⟩
  | rdwidth => exact ⟨_, .answer (Config.widthWord w), fun _ _ => rfl⟩
  | nop => exact idleWrite_uniform _
  | start => exact idleWrite_uniform _
  | inits => exact idleWrite_uniform _
  | initc => exact idleWrite_uniform _
  | inita => exact idleWrite_uniform _
  | clrerr => exact idleWrite_uniform _

/-- The decoder names a transaction invalid only for its header bits `[14:12]` (30_encoding.md R96). -/
theorem decode_ne_notATransaction {t : Transaction w} (h : slice t.header 14 12 = 0) :
    decode t ≠ .error .notATransaction := by
  unfold decode
  split
  · simp
  · simp only [rejectOf, h, ne_eq, not_true_eq_false, if_false, Except.error.injEq]
    split_ifs <;> simp

theorem transact_uniform {t : Transaction w} (h : slice t.header 14 12 = 0) : UniformWhileBusy (transact t) := by
  cases hd : decode t with
  | ok i =>
    obtain ⟨f, hf, acts⟩ := perform_uniform i
    exact ⟨f, hf, fun σ busy => by simp only [transact, hd, acts σ busy]⟩
  | error r =>
    cases r with
    | notATransaction => exact absurd hd (decode_ne_notATransaction h)
    | reservedAddress =>
      obtain ⟨f, hf, acts⟩ := refuse_uniform t .addr
      exact ⟨f, hf, fun σ busy => by simp only [transact, hd, acts σ busy]⟩
    | readOnlyLocation =>
      obtain ⟨f, hf, acts⟩ := refuse_uniform t .ro
      exact ⟨f, hf, fun σ busy => by simp only [transact, hd, acts σ busy]⟩
    | malformedCommand =>
      obtain ⟨f, hf, acts⟩ := refuse_uniform t .busy
      exact ⟨f, hf, fun σ busy => by
        simp only [transact, hd, State.commandError, busy, if_true, acts σ busy]⟩

theorem busyEffect_sameButError {f : State w → State w} (hf : BusyEffect f) (σ : State w) :
    sameButError σ (f σ) := by
  cases hf with
  | raise e =>
    unfold sameButError
    rw [raise_reply]
    exact raise_frame σ e
  | raiseRead e => exact raiseRead_frame σ e
  | answer v => rfl
  | status => rfl

theorem statusWord_of_sameFace {σ ρ : State w} (h : sameFace σ ρ) : ρ.statusWord = σ.statusWord := by
  obtain ⟨busy, done, code, -⟩ := h
  simp only [State.statusWord, State.err, busy, done, code]

theorem busyEffect_sameFace {f : State w → State w} (hf : BusyEffect f) {σ ρ : State w} (h : sameFace σ ρ) :
    sameFace (f σ) (f ρ) := by
  obtain ⟨busy, done, code, reply⟩ := id h
  cases hf with
  | raise e => simp [sameFace, raise_errcode, busy, done, code, reply]
  | raiseRead e => simp [sameFace, raiseRead_errcode, busy, done, code]
  | answer v => exact ⟨busy, done, code, rfl⟩
  | status => exact ⟨busy, done, code, congrArg some (statusWord_of_sameFace h)⟩

/-- Settles O33: the same function of the status fields acts on both machines. -/
theorem midFrameStateIsUnobservable : Obligations.MidFrameStateIsUnobservable := by
  intro w _ t σ ρ header busy face
  obtain ⟨f, hf, acts⟩ := transact_uniform header
  have busy' : ρ.busy = true := face.1.trans busy
  exact ⟨f σ, f ρ, acts σ busy, acts ρ busy', busyEffect_sameButError hf σ, busyEffect_sameFace hf face⟩

end Sys2Proof.Machine

/-! PROOF. The control reads (43_host_access.md R177 to R180), the fields of the status word (10_state.md R32)
and the values reset leaves (R36). -/

namespace Sys2Proof.Machine

variable {w : Nat}

/-- `STATUS.ERR` as a number is 1 exactly where a code is recorded. -/
theorem err_toNat (σ : State w) : σ.err.toNat = if σ.errcode = 0 then 0 else 1 := by
  unfold State.err
  by_cases h : σ.errcode = 0
  · simp [h]
  · rw [if_neg h, bne_iff_ne.2 h]; rfl

/-- RDCFG and RDWIDTH at every width: neither row looks at the data word. -/
theorem decode_rdcfg (w : Nat) : decode (⟨0x0502, 0⟩ : Transaction w) = .ok .rdcfg := by
  simp [decode, opcodeRows, accessRows, OpRow.selects]

theorem decode_rdwidth (w : Nat) : decode (⟨0x0503, 0⟩ : Transaction w) = .ok .rdwidth := by
  simp [decode, opcodeRows, accessRows, OpRow.selects]

theorem transact_of_decode {t : Transaction w} {i : Instr w} (h : decode t = .ok i) (σ : State w) :
    transact t σ = perform i σ := by
  simp only [transact, h]

theorem exec_rdstat (σ : State) : exec .rdstat σ = .next { σ with reply := some σ.statusWord } := rfl

/-- Settles O21: the control reads pass no busy check. -/
theorem controlReadsAnswerAlways : Obligations.ControlReadsAnswerAlways := by
  refine ⟨rfl, rfl, rfl, rfl, fun σ => ⟨rfl, ?_, rfl, rfl⟩, fun w _ σ => ⟨?_, ?_⟩⟩
  · rw [exec_rdstat, State.statusWord, err_toNat]
  · rw [transact_of_decode (decode_rdcfg w)]; rfl
  · rw [transact_of_decode (decode_rdwidth w)]; rfl

/-- The fields of the status word fill its eight low bits. -/
theorem statusFields_lt (σ : State w) :
    σ.busy.toNat + 2 * σ.done.toNat + 4 * σ.err.toNat + 16 * σ.errcode.toNat < 2 ^ 8 := by
  have code := σ.errcode.isLt
  have busy := σ.busy.toNat_le
  have done := σ.done.toNat_le
  have err := σ.err.toNat_le
  omega

theorem statusWord_toNat (hw : 16 ≤ w) (σ : State w) :
    σ.statusWord.toNat = σ.busy.toNat + 2 * σ.done.toNat + 4 * σ.err.toNat + 16 * σ.errcode.toNat :=
  ofNat_toNat_of_lt hw ((statusFields_lt σ).trans (by decide))

/-- Settles O22: the fields are the digits of the status word's number. -/
theorem statusWordHasItsFields : Obligations.StatusWordHasItsFields := by
  intro σ
  have word := statusWord_toNat (by decide) σ
  have reserved : slice σ.statusWord (Config.W - 1) 8 = 0 := by
    rw [slice, word, Nat.div_eq_of_lt (statusFields_lt σ), Nat.zero_mod]
  have code := σ.errcode.isLt
  have busy := σ.busy.toNat_le
  have done := σ.done.toNat_le
  have err := σ.err.toNat_le
  refine ⟨σ.statusWord, exec_rdstat σ, ?_⟩
  rw [← err_toNat]
  refine ⟨?_, ?_, ?_, ?_, ?_, reserved⟩ <;> (simp only [slice, word]; omega)

theorem resetAt_histAt (c s : Fin 8) (j : Fin 2) : (State.resetAt w).histAt c s j = 0 := by
  have pair : (State.resetAt w).histPair c s = History.zero w := by
    simp [State.histPair, State.resetAt, Channel.atReset, History.zero]
  rw [State.histAt, pair, history_zero_get]

theorem runAlone_idle {σ : State w} (idle : σ.busy = false) : σ.runAlone = σ := by
  simp [State.runAlone, idle]

/-- Settles O52: with no turn listed the engine moves alone, and an idle one does not move. -/
theorem resetLeavesTheSpecsValues : Obligations.ResetLeavesTheSpecsValues :=
  ⟨resetAt_histAt, rfl, rfl, rfl, congrArg _ (runAlone_idle (σ := State.reset) rfl)⟩

end Sys2Proof.Machine

/-! PROOF. A RD changes `ERRCODE` alone, and only when it is an error (20_memory.md R68): what a RD can leave of the
engine, said once as `ReadMove`, and the frame of any change of the error code and the port's answer alone. -/

namespace Sys2Proof.Machine

variable {w : Nat}

/-! ### The frame of the error code and the port's answer -/

/-- Every word of the address space but the status word stands in the channels or is a constant. -/
theorem readRegion_of_same_chan {σ τ : State w} (chan : τ.chan = σ.chan) {r : Region} (h : r ≠ .status) :
    τ.readRegion r = σ.readRegion r := by
  cases r with
  | coef c s k => simp only [State.readRegion, State.coefAt, chan]
  | hist c s j => simp only [State.readRegion, State.histAt, State.histPair, chan]
  | inbuf c n => simp only [State.readRegion, State.inbufAt, chan]
  | outbuf c n => simp only [State.readRegion, State.outbufAt, chan]
  | status => exact absurd rfl h
  | cmd | config | width => rfl

theorem sameStorage_of_same_chan {σ τ : State w} (chan : τ.chan = σ.chan) : sameStorage σ τ :=
  fun a ha => peek_congr a ha fun _ other _ => readRegion_of_same_chan chan other

theorem sameLanes_of_same_chan {σ τ : State w} (chan : τ.chan = σ.chan) : sameLanes σ τ :=
  fun c => ⟨by simp only [State.xAt, chan], by simp only [State.posAt, chan]⟩

theorem frame_of_sameButError {σ τ : State w} (h : sameButError σ τ) :
    sameStorage σ τ ∧ sameLanes σ τ ∧ sameRun σ τ ∧ sameWorld σ τ :=
  have chan : τ.chan = σ.chan := (congrArg State.chan h :)
  ⟨sameStorage_of_same_chan chan, sameLanes_of_same_chan chan,
    ⟨(congrArg State.busy h :), (congrArg State.done h :)⟩,
    (congrArg State.agenda h :), (congrArg State.turn h :), (congrArg State.epoch h :)⟩

/-! ### What a RD can do -/

/-- What the RD `i` can leave of the engine `σ`: an answer, or one of the two errors a decoded RD can raise, each
with its cause (43_host_access.md R170, steps 1 and 4). -/
inductive ReadMove (i : Instr w) (σ : State w) : State w → Prop
  | answer (v : Word w) : ReadMove i σ (σ.answer v)
  | reserved (malformed : ¬WellFormed i) : ReadMove i σ (σ.raiseRead .addr)
  | busy (busy : σ.busy = true) (storage : isControlRead i = false) : ReadMove i σ (σ.raiseRead .busy)

theorem readMove_idleRead {i : Instr w} (storage : isControlRead i = false) (σ : State w) (v : State w → Word w) :
    ReadMove i σ (σ.idleRead v) := by
  cases busy : σ.busy with
  | true => exact idleRead_busy σ busy ▸ .busy busy storage
  | false => exact idleRead_idle σ busy ▸ .answer (v σ)

theorem readMove_of_perform {i : Instr w} {σ τ : State w} (read : isRead i = true)
    (h : perform i σ = .next τ) : ReadMove i σ τ := by
  cases i with
  | rdcoef c s k =>
    simp only [perform, execRdcoef] at h
    split at h
    next inside =>
      cases h
      exact readMove_idleRead (by simp [isControlRead]) σ _
    next outside =>
      cases h
      exact .reserved fun wf => outside (Nat.lt_succ_of_le (of_decide_eq_true wf))
  | rdhist | rdin | rdout =>
    cases h
    exact readMove_idleRead (by simp [isControlRead]) σ _
  | rdcmd | rdstat | rdcfg | rdwidth =>
    cases h
    exact .answer _
  | wrcoef | wrin | nop | start | inits | initc | inita | clrerr => cases read

theorem readMove_sameButError {i : Instr w} {σ τ : State w} (m : ReadMove i σ τ) : sameButError σ τ := by
  cases m with
  | answer v => rfl
  | reserved => exact raiseRead_frame σ .addr
  | busy => exact raiseRead_frame σ .busy

/-- A well-formed RD that the busy check does not refuse is no error, and keeps the code. -/
theorem readMove_errcode {i : Instr w} {σ τ : State w} (m : ReadMove i σ τ)
    (served : σ.busy = false ∨ isControlRead i = true) (wf : WellFormed i) : τ.errcode = σ.errcode := by
  cases m with
  | answer v => rfl
  | reserved malformed => exact absurd wf malformed
  | busy busy storage => simp [busy, storage] at served

/-- Settles O23: a RD leaves an answer or an error, and neither touches more than the error code and the answer. -/
theorem readsChangeNothing : Obligations.ReadsChangeNothing := by
  intro i σ τ read h
  have m : ReadMove i σ τ := readMove_of_perform read (exec_eq_perform i σ ▸ h)
  obtain ⟨storage, lanes, run, world⟩ := frame_of_sameButError (readMove_sameButError m)
  exact ⟨storage, lanes, run, world, readMove_errcode m⟩

end Sys2Proof.Machine

/-! PROOF. A host turn runs the instruction its transaction decodes to (20_memory.md R71, 30_encoding.md R95), and
placing an instruction lists such a turn before all others (log entries 4 and 12). -/

namespace Sys2Proof.Machine

variable {w : Nat}

theorem nextTurn_host {σ : State w} {t : Transaction w} {rest : List (Turn w)} {i : Instr w}
    (next : σ.agenda = .host t :: rest) (decodes : decode t = .ok i) :
    nextTurn σ = perform i { σ with agenda := rest } := by
  simp only [nextTurn, next, takeTurn, transact_of_decode decodes]

/-- The table's numbering has an instruction only where the decoder reads it. -/
theorem decode_tableTransaction {nbits bits : Nat} {i : Instr} (h : decodeTableWord nbits bits = some i) :
    decode (tableTransaction nbits bits) = .ok i := by
  unfold decodeTableWord at h
  split at h
  · cases decoded : decode (tableTransaction nbits bits) with
    | ok j => simpa [decoded] using h
    | error r => simp [decoded] at h
  · cases h

/-- Taking the placed turn off the agenda again gives the state it was placed on. -/
theorem step_withFetchWord (σ : State) {nbits bits : Nat} {i : Instr} (h : decodeTableWord nbits bits = some i) :
    step (σ.withFetchWord nbits bits) = perform i σ :=
  nextTurn_host (σ := σ.withFetchWord nbits bits) rfl (decode_tableTransaction h)

/-- Settles O56: the step is `nextTurn`, and `exec` is `perform` at the default width. -/
theorem stepRunsTheDecodedInstruction : Obligations.StepRunsTheDecodedInstruction :=
  ⟨fun _ _ _ i next decodes => (nextTurn_host next decodes).trans (exec_eq_perform i _).symm,
    fun σ _ _ i h => (step_withFetchWord σ h).trans (exec_eq_perform i σ).symm,
    fun _ _ _ _ _ next decodes => nextTurn_host next decodes,
    exec_eq_perform⟩

end Sys2Proof.Machine

/-! PROOF. The opcode map (30_encoding.md R95): its rows clash pairwise, so the decoder finds the one row that selects
a transaction, and no row selects a header with a bit of `[14:12]` set (R96). -/

namespace Sys2Proof

variable {w : Nat}

/-! ### A row selects, two rows clash -/

theorem selects_of_access {r : OpRow w} (h : r.command = none) (t : Transaction w) :
    r.selects t = true ↔ t.header &&& r.mask = r.pat := by
  simp [OpRow.selects, h]

theorem selects_of_command {r : OpRow w} {m p : BitVec 16} (h : r.command = some (m, p)) (t : Transaction w) :
    r.selects t = true ↔ t.header &&& r.mask = r.pat ∧ commandMatches t.data m p = true := by
  simp [OpRow.selects, h]

/-- Two patterns ask for different values of a bit that both their masks keep. -/
def patternsClash (m p m' p' : BitVec 16) : Bool := p &&& m' != p' &&& m

/-- What a row asks of the bits of a transaction: the mask and match of the header and, for a command, of the data
word. Unlike the row it has no width. -/
abbrev RowBits := (BitVec 16 × BitVec 16) × Option (BitVec 16 × BitVec 16)

def OpRow.bits (r : OpRow w) : RowBits := ((r.mask, r.pat), r.command)

/-- Two rows clash in the header, or both are commands and clash in the data word. -/
def RowBits.clash : RowBits → RowBits → Bool
  | ((m, p), some (dm, dp)), ((m', p'), some (dm', dp')) =>
    patternsClash m p m' p' || patternsClash dm dp dm' dp'
  | ((m, p), _), ((m', p'), _) => patternsClash m p m' p'

/-- A word that meets both patterns has the bits of both masks in common. -/
theorem patternsClash_eq_false {v m p m' p' : BitVec 16} (h : v &&& m = p) (h' : v &&& m' = p') :
    patternsClash m p m' p' = false := by
  subst h h'
  simp only [patternsClash, bne_eq_false_iff_eq, BitVec.and_assoc, BitVec.and_comm m m']

theorem low_of_commandMatches {d : Word w} {m p : BitVec 16} (h : commandMatches d m p = true) :
    BitVec.ofNat 16 d.toNat &&& m = p := by
  simp only [commandMatches, Bool.and_eq_true, beq_iff_eq] at h
  exact h.2

/-- No transaction is selected by two rows that clash. -/
theorem clash_eq_false {r q : OpRow w} {t : Transaction w} (hr : r.selects t = true) (hq : q.selects t = true) :
    RowBits.clash r.bits q.bits = false := by
  obtain ⟨_, m, p, commandR, _⟩ := r
  obtain ⟨_, m', p', commandQ, _⟩ := q
  simp only [OpRow.selects, Bool.and_eq_true, beq_iff_eq] at hr hq
  obtain ⟨headerR, dataR⟩ := hr
  obtain ⟨headerQ, dataQ⟩ := hq
  have headers : patternsClash m p m' p' = false := patternsClash_eq_false headerR headerQ
  cases commandR with
  | none => exact headers
  | some a =>
    cases commandQ with
    | none => exact headers
    | some b =>
      have words := patternsClash_eq_false (low_of_commandMatches dataR) (low_of_commandMatches dataQ)
      simp only [OpRow.bits, RowBits.clash, headers, words, Bool.or_false]

theorem opcodeRows_bits (w : Nat) :
    (opcodeRows (w := w)).map OpRow.bits = (opcodeRows (w := Config.W)).map OpRow.bits := rfl

/-- Any two rows of the map clash (30_encoding.md R95). -/
theorem opcodeRows_clash : (opcodeRows (w := w)).Pairwise fun r q => RowBits.clash r.bits q.bits = true := by
  rw [← List.pairwise_map (f := OpRow.bits) (R := fun a b => RowBits.clash a b = true), opcodeRows_bits]
  decide

/-- At most one row of the map selects a transaction. -/
theorem row_unique {t : Transaction w} {r q : OpRow w} (memR : r ∈ opcodeRows) (memQ : q ∈ opcodeRows)
    (hr : r.selects t = true) (hq : q.selects t = true) : r = q := by
  by_contra different
  have apart : opcodeRows.Pairwise fun r q : OpRow w => ¬(r.selects t = true ∧ q.selects t = true) :=
    opcodeRows_clash.imp fun clash both => by simp [clash_eq_false both.1 both.2] at clash
  have symmetric : Std.Symm fun r q : OpRow w => ¬(r.selects t = true ∧ q.selects t = true) :=
    ⟨fun _ _ h both => h both.symm⟩
  exact apart.forall memR memQ different ⟨hr, hq⟩

/-- Settles O3: two rows that select one transaction are one row. -/
theorem opcodeRowsAreDisjoint : Obligations.OpcodeRowsAreDisjoint :=
  fun _ _ _ memR _ memQ hr hq => congrArg OpRow.mnemonic (row_unique memR memQ hr hq)

/-- The decoder reads an instruction exactly where a row of the map selects the transaction and reads it. -/
theorem decode_ok_iff {t : Transaction w} {i : Instr w} :
    decode t = .ok i ↔ ∃ r ∈ opcodeRows, r.selects t = true ∧ r.read t = i := by
  unfold decode
  cases found : opcodeRows.find? (fun r => r.selects t) with
  | none =>
    rw [List.find?_eq_none] at found
    simpa using fun r mem sel => absurd sel (found r mem)
  | some r =>
    have mem := List.mem_of_find?_eq_some found
    have sel : r.selects t = true := List.find?_some (p := fun r : OpRow w => r.selects t) found
    constructor
    · intro h
      injection h with h
      exact ⟨r, mem, sel, h⟩
    · rintro ⟨q, memQ, selQ, rfl⟩
      rw [row_unique mem memQ sel selQ]

/-! ### Headers that name no transaction -/

/-- The mask `0x7000` keeps the bits `[14:12]`. -/
theorem slice_14_12_of_mask {v : Header} (h : v &&& 0x7000 = 0) : slice v 14 12 = 0 := by
  have shifted : (v &&& 0x7000) >>> 12 = (v >>> 12) &&& 7 := by
    rw [BitVec.ushiftRight_and_distrib]
    rfl
  rw [h] at shifted
  have low : 0 = v.toNat >>> 12 &&& 7 := by
    simpa using congrArg BitVec.toNat shifted
  rw [Nat.and_two_pow_sub_one_eq_mod _ 3, Nat.shiftRight_eq_div_pow] at low
  exact low.symm

/-- Every row asks for the bits `[14:12]` to be zero (30_encoding.md R91). -/
theorem slice_14_12_of_selects {t : Transaction w} {r : OpRow w} (mem : r ∈ opcodeRows)
    (sel : r.selects t = true) : slice t.header 14 12 = 0 := by
  obtain ⟨⟨mask, pat⟩, -⟩ := rows_headers r mem
  simp only [OpRow.selects, Bool.and_eq_true, beq_iff_eq] at sel
  obtain ⟨header, -⟩ := sel
  apply slice_14_12_of_mask
  calc t.header &&& 0x7000 = t.header &&& (r.mask &&& 0x7000) := by rw [mask]
    _ = r.pat &&& 0x7000 := by rw [← BitVec.and_assoc, header]
    _ = 0 := pat

theorem decode_notATransaction {t : Transaction w} (h : slice t.header 14 12 ≠ 0) :
    decode t = .error .notATransaction := by
  have none : opcodeRows.find? (fun r => r.selects t) = none :=
    List.find?_eq_none.2 fun _ mem sel => h (slice_14_12_of_selects mem sel)
  simp only [decode, none, rejectOf, if_pos h]

/-- Settles O4: no row selects such a header, and the host's turn ends in the refusal of its class. -/
theorem setHeaderBitsNameNoTransaction : Obligations.SetHeaderBitsNameNoTransaction := by
  intro t σ h
  have decoded := decode_notATransaction h
  refine ⟨decoded, ?_⟩
  change Machine.transact t σ = _
  simp only [Machine.transact, decoded]

/-- Settles O5: the decoder computes on each word. -/
theorem wordsOfTheSpecDecodeRight : Obligations.WordsOfTheSpecDecodeRight :=
  ⟨rfl, rfl, rfl, rfl, rfl, rfl, rfl, rfl, rfl, rfl⟩

end Sys2Proof

/-! PROOF. The round trip from the instruction (30_encoding.md R92, R93, R95, R98): the row of an instruction selects
the transaction written for it, and the row's fields are the operands. -/

namespace Sys2Proof

open Machine (field3_val field5_val field1_val)

variable {w : Nat}

/-! ### A row of each kind and the fields -/

theorem accessRows_command : ∀ r ∈ accessRows (w := w), r.command = none := by
  simp [accessRows]

/-- The access row `n` reads the transactions whose header it selects. -/
theorem decode_of_access (n : Nat) (hn : n < 10) {t : Transaction w} {i : Instr w}
    (header : t.header &&& (accessRows (w := w))[n].mask = (accessRows (w := w))[n].pat)
    (reads : (accessRows (w := w))[n].read t = i) : decode t = .ok i :=
  have mem : (accessRows (w := w))[n] ∈ accessRows := List.getElem_mem hn
  decode_ok_iff.2 ⟨_, List.mem_append_left _ mem, (selects_of_access (accessRows_command _ mem) t).2 header, reads⟩

/-- The command row `n` reads the writes of `CMD` whose data word it selects. -/
theorem decode_of_command (n : Nat) (hn : n < 6) {m p : BitVec 16}
    (row : (commandRows (w := w))[n].command = some (m, p)) {d : Nat} {i : Instr w}
    (word : commandMatches (BitVec.ofNat w d) m p = true)
    (reads : (commandRows (w := w))[n].read (command d) = i) : decode (command d) = .ok i := by
  have mem : (commandRows (w := w))[n] ∈ commandRows := List.getElem_mem hn
  have header : ∀ r ∈ commandRows (w := w), r.mask = 0xFFFF ∧ r.pat = 0x8500 := by simp [commandRows]
  obtain ⟨mask, pat⟩ := header _ mem
  refine decode_ok_iff.2 ⟨_, List.mem_append_right _ mem, (selects_of_command row _).2 ⟨?_, word⟩, reads⟩
  rw [mask, pat, mask_FFFF]
  rfl

theorem field3_eq {v : BitVec w} {lo : Nat} {c : Fin 8} (h : v.toNat / 2 ^ lo % 8 = c.val) : field3 v lo = c :=
  Fin.ext ((field3_val v lo).trans h)

theorem field5_eq {v : BitVec w} {n : Fin 32} (h : v.toNat % 32 = n.val) : field5 v = n :=
  Fin.ext ((field5_val v).trans h)

theorem field1_eq {v : BitVec w} {j : Fin 2} (h : v.toNat % 2 = j.val) : field1 v = j :=
  Fin.ext ((field1_val v).trans h)

/-! ### Each access row from the header's number, whatever the data word of a RD -/

section

variable {t : Transaction w}

theorem decode_wrcoef {c s k : Fin 8} (header : t.header.toNat = 0x8000 + coefAddr c s k) :
    decode t = .ok (.wrcoef c s k t.data) := by
  unfold coefAddr at header
  refine decode_of_access 0 (by decide) ((mask_FE00 _ 64 (by decide)).2 (by omega)) ?_
  exact (Instr.wrcoef.injEq ..).mpr ⟨field3_eq (by omega), field3_eq (by omega), field3_eq (by omega), rfl⟩

theorem decode_rdcoef {c s k : Fin 8} (header : t.header.toNat = coefAddr c s k) :
    decode t = .ok (.rdcoef c s k) := by
  unfold coefAddr at header
  refine decode_of_access 1 (by decide) ((mask_FE00 _ 0 (by decide)).2 (by omega)) ?_
  exact (Instr.rdcoef.injEq ..).mpr ⟨field3_eq (by omega), field3_eq (by omega), field3_eq (by omega)⟩

theorem decode_rdhist {c s : Fin 8} {j : Fin 2} (header : t.header.toNat = histAddr c s j) :
    decode t = .ok (.rdhist c s j) := by
  unfold histAddr at header
  refine decode_of_access 2 (by decide) ((mask_FF80 _ 4 (by decide)).2 (by omega)) ?_
  exact (Instr.rdhist.injEq ..).mpr ⟨field3_eq (by omega), field3_eq (by omega), field1_eq (by omega)⟩

theorem decode_wrin {c : Fin 8} {n : Fin 32} (header : t.header.toNat = 0x8000 + inbufAddr c n) :
    decode t = .ok (.wrin c n t.data) := by
  unfold inbufAddr at header
  refine decode_of_access 3 (by decide) ((mask_FF00 _ 0x83 (by decide)).2 (by omega)) ?_
  exact (Instr.wrin.injEq ..).mpr ⟨field3_eq (by omega), field5_eq (by omega), rfl⟩

theorem decode_rdin {c : Fin 8} {n : Fin 32} (header : t.header.toNat = inbufAddr c n) :
    decode t = .ok (.rdin c n) := by
  unfold inbufAddr at header
  refine decode_of_access 4 (by decide) ((mask_FF00 _ 0x03 (by decide)).2 (by omega)) ?_
  exact (Instr.rdin.injEq ..).mpr ⟨field3_eq (by omega), field5_eq (by omega)⟩

theorem decode_rdout {c : Fin 8} {n : Fin 32} (header : t.header.toNat = outbufAddr c n) :
    decode t = .ok (.rdout c n) := by
  unfold outbufAddr at header
  refine decode_of_access 5 (by decide) ((mask_FF00 _ 0x04 (by decide)).2 (by omega)) ?_
  exact (Instr.rdout.injEq ..).mpr ⟨field3_eq (by omega), field5_eq (by omega)⟩

end

/-- The data word that INITS writes matches INITS' row alone in the bits that are no index (30_encoding.md R93). -/
theorem inits_word_matches (c s : Fin 8) :
    (BitVec.ofNat 16 (2 + s.val * 16 + c.val * 128) &&& 0xFC0F == 0x0002) = true := by
  revert c s
  decide

theorem initc_word_matches (c : Fin 8) : (BitVec.ofNat 16 (3 + c.val * 128) &&& 0xFC7F == 0x0003) = true := by
  revert c
  decide

/-- The six commands need the width for their data word, the ten accesses do not. -/
theorem decode_encode (hw : 16 ≤ w) (i : Instr w) : decode (encode i) = .ok i := by
  cases i with
  | wrcoef c s k v => exact decode_wrcoef (wr_header_toNat (by unfold coefAddr; omega) v)
  | rdcoef c s k => exact decode_rdcoef (rd_header_toNat (by unfold coefAddr; omega))
  | rdhist c s j => exact decode_rdhist (rd_header_toNat (by unfold histAddr; omega))
  | wrin c n v => exact decode_wrin (wr_header_toNat (by unfold inbufAddr; omega) v)
  | rdin c n => exact decode_rdin (rd_header_toNat (by unfold inbufAddr; omega))
  | rdout c n => exact decode_rdout (rd_header_toNat (by unfold outbufAddr; omega))
  | rdcmd => exact decode_of_access 6 (by decide) ((mask_FFFF _ _).2 rfl) rfl
  | rdstat => exact decode_of_access 7 (by decide) ((mask_FFFF _ _).2 rfl) rfl
  | rdcfg => exact decode_of_access 8 (by decide) ((mask_FFFF _ _).2 rfl) rfl
  | rdwidth => exact decode_of_access 9 (by decide) ((mask_FFFF _ _).2 rfl) rfl
  | nop => exact decode_of_command 0 (by decide) rfl (commandMatches_ofNat hw (by decide) _ _) rfl
  | start => exact decode_of_command 1 (by decide) rfl (commandMatches_ofNat hw (by decide) _ _) rfl
  | inits c s =>
    have small : 2 + s.val * 16 + c.val * 128 < 2 ^ 16 := by omega
    have word := (commandMatches_ofNat hw small 0xFC0F 0x0002).trans (inits_word_matches c s)
    have data : (command (w := w) (2 + s.val * 16 + c.val * 128)).data.toNat = _ := ofNat_toNat_of_lt hw small
    refine decode_of_command 2 (by decide) rfl word ?_
    exact (Instr.inits.injEq ..).mpr ⟨field3_eq (by omega), field3_eq (by omega)⟩
  | initc c =>
    have small : 3 + c.val * 128 < 2 ^ 16 := by omega
    have word := (commandMatches_ofNat hw small 0xFC7F 0x0003).trans (initc_word_matches c)
    have data : (command (w := w) (3 + c.val * 128)).data.toNat = _ := ofNat_toNat_of_lt hw small
    refine decode_of_command 3 (by decide) rfl word ?_
    exact congrArg Instr.initc (field3_eq (by omega))
  | inita => exact decode_of_command 4 (by decide) rfl (commandMatches_ofNat hw (by decide) _ _) rfl
  | clrerr => exact decode_of_command 5 (by decide) rfl (commandMatches_ofNat hw (by decide) _ _) rfl

/-- Settles O1, instruction by instruction. -/
theorem encodedInstructionDecodesBack : Obligations.EncodedInstructionDecodesBack :=
  fun _ hw i => decode_encode hw i

end Sys2Proof

/-! PROOF. The round trip from the transaction (30_encoding.md R90, R92, R95, R98): the bits a row does not ask for
are the bits of its operands, and the encoder puts them back. -/

namespace Sys2Proof

open Machine (field3_val field5_val field1_val)

variable {w : Nat}

/-- The encoder writes the header of `t` for `i` and, if `t` is a WR, its data word too. -/
def Restores (t : Transaction w) (i : Instr w) : Prop :=
  (encode i).header = t.header ∧ (t.isWrite = true → encode i = t)

section

variable {t : Transaction w} {i : Instr w}

theorem restores_of_wr {a : Nat} (header : t.header.toNat = 0x8000 + a) (writes : encode i = wr a t.data) :
    Restores t i := by
  have same : wr a t.data = t := by
    rw [wr, ← header, BitVec.ofNat_toNat, BitVec.setWidth_eq]
  rw [same] at writes
  exact ⟨congrArg _ writes, fun _ => writes⟩

theorem restores_of_rd {a : Nat} (header : t.header.toNat = a) (small : a < 0x1000) (reads : encode i = rd a) :
    Restores t i := by
  have same : (rd a : Transaction w).header = t.header :=
    BitVec.eq_of_toNat_eq ((rd_header_toNat small).trans header.symm)
  have direction : t.isWrite = false := by
    rw [← rd_isWrite (w := w) small, Transaction.isWrite, Transaction.isWrite, same]
  exact ⟨by rw [reads, same], by simp [direction]⟩

/-- The row of a control register's RD asks for its whole header. -/
theorem restores_of_control {a : Nat} (small : a < 0x1000) (header : t.header = BitVec.ofNat 16 a)
    (reads : encode i = rd a) : Restores t i :=
  restores_of_rd ((congrArg BitVec.toNat header).trans (rd_header_toNat (w := w) small)) small reads

theorem restores_of_command {d : Nat} (header : t.header = 0x8500) (data : t.data.toNat = d)
    (writes : encode i = command d) : Restores t i := by
  refine restores_of_wr (a := cmdAddr) (by rw [header]; rfl) ?_
  rw [writes, command, ← data, BitVec.ofNat_toNat, BitVec.setWidth_eq]

end

/-! ### The data word of a command row -/

theorem and_of_submask {n : Nat} {v m p m' : BitVec n} (h : v &&& m = p) (sub : m &&& m' = m') :
    v &&& m' = p &&& m' := by
  rw [← h, BitVec.and_assoc, sub]

theorem mod_of_low_mask {n : Nat} {v p : BitVec n} (k : Nat) (hk : k < n) (h : v &&& BitVec.ofNat n (2 ^ k - 1) = p) :
    v.toNat % 2 ^ k = p.toNat := by
  have fits : 2 ^ k - 1 < 2 ^ n := Nat.lt_of_le_of_lt (Nat.sub_le ..) (Nat.pow_lt_pow_right (by decide) hk)
  rw [← h, BitVec.toNat_and, BitVec.toNat_ofNat, Nat.mod_eq_of_lt fits, Nat.and_two_pow_sub_one_eq_mod]

theorem mask_FC00 (v : BitVec 16) : v &&& 0xFC00 = 0 ↔ v.toNat / 1024 = 0 := high_mask_iff v 10 0 (by decide)

/-- A command word is the number of its low 16 bits, the rest being zero. -/
theorem toNat_of_commandMatches {d : Word w} {m p : BitVec 16} (h : commandMatches d m p = true) :
    (BitVec.ofNat 16 d.toNat).toNat = d.toNat := by
  simp only [commandMatches, Bool.and_eq_true, beq_iff_eq] at h
  rw [BitVec.toNat_ofNat]
  omega

theorem full_word {d : Word w} {p : BitVec 16} (h : commandMatches d 0xFFFF p = true) : d.toNat = p.toNat := by
  rw [← toNat_of_commandMatches h, (mask_FFFF _ _).1 (low_of_commandMatches h)]

/-- A command row whose mask holds the bits `[15:10]` and `[k-1:0]` fixes those bits of the whole data word. -/
theorem word_of_commandMatches {d : Word w} {m p : BitVec 16} (k : Nat) (hk : k < 16)
    (h : commandMatches d m p = true) (high : m &&& 0xFC00 = 0xFC00 ∧ p &&& 0xFC00 = 0)
    (low : m &&& BitVec.ofNat 16 (2 ^ k - 1) = BitVec.ofNat 16 (2 ^ k - 1)) :
    d.toNat / 1024 = 0 ∧ d.toNat % 2 ^ k = (p &&& BitVec.ofNat 16 (2 ^ k - 1)).toNat := by
  have bits := low_of_commandMatches h
  rw [← toNat_of_commandMatches h]
  exact ⟨(mask_FC00 _).1 ((and_of_submask bits high.1).trans high.2), mod_of_low_mask k hk (and_of_submask bits low)⟩

/-- INITS' data word is its two indices over the opcode 2 (30_encoding.md R93). -/
theorem inits_word {d : Word w} (h : commandMatches d 0xFC0F 0x0002 = true) :
    d.toNat = 2 + (field3 d 4).val * 16 + (field3 d 7).val * 128 := by
  obtain ⟨high, opcode⟩ : d.toNat / 1024 = 0 ∧ d.toNat % 16 = 2 :=
    word_of_commandMatches 4 (by decide) h (by decide) (by decide)
  simp only [field3_val]
  omega

/-- INITC's data word is its index over three zeroes and the opcode 3. -/
theorem initc_word {d : Word w} (h : commandMatches d 0xFC7F 0x0003 = true) :
    d.toNat = 3 + (field3 d 7).val * 128 := by
  obtain ⟨high, opcode⟩ : d.toNat / 1024 = 0 ∧ d.toNat % 128 = 3 :=
    word_of_commandMatches 7 (by decide) h (by decide) (by decide)
  simp only [field3_val]
  omega

/-! ### Row by row -/

theorem accessRows_restore (t : Transaction w) :
    ∀ r ∈ accessRows, r.selects t = true → Restores t (r.read t) := by
  simp only [accessRows, List.forall_mem_cons, List.not_mem_nil, false_imp_iff, implies_true, and_true]
  have selected {r : OpRow w} (h : r.command = none) (sel : r.selects t = true) := (selects_of_access h t).1 sel
  refine ⟨fun sel => ?_, fun sel => ?_, fun sel => ?_, fun sel => ?_, fun sel => ?_, fun sel => ?_,
    fun sel => ?_, fun sel => ?_, fun sel => ?_, fun sel => ?_⟩
  · have := (mask_FE00 _ 64 (by decide)).1 (selected rfl sel)
    exact restores_of_wr (by simp only [coefAddr, field3_val]; omega) rfl
  · have := (mask_FE00 _ 0 (by decide)).1 (selected rfl sel)
    exact restores_of_rd (by simp only [coefAddr, field3_val]; omega) (by unfold coefAddr; omega) rfl
  · have := (mask_FF80 _ 4 (by decide)).1 (selected rfl sel)
    exact restores_of_rd (by simp only [histAddr, field3_val, field1_val]; omega) (by unfold histAddr; omega) rfl
  · have := (mask_FF00 _ 0x83 (by decide)).1 (selected rfl sel)
    exact restores_of_wr (by simp only [inbufAddr, field3_val, field5_val]; omega) rfl
  · have := (mask_FF00 _ 0x03 (by decide)).1 (selected rfl sel)
    exact restores_of_rd (by simp only [inbufAddr, field3_val, field5_val]; omega) (by unfold inbufAddr; omega) rfl
  · have := (mask_FF00 _ 0x04 (by decide)).1 (selected rfl sel)
    exact restores_of_rd (by simp only [outbufAddr, field3_val, field5_val]; omega) (by unfold outbufAddr; omega) rfl
  · exact restores_of_control (by decide) ((mask_FFFF _ _).1 (selected rfl sel)) rfl
  · exact restores_of_control (by decide) ((mask_FFFF _ _).1 (selected rfl sel)) rfl
  · exact restores_of_control (by decide) ((mask_FFFF _ _).1 (selected rfl sel)) rfl
  · exact restores_of_control (by decide) ((mask_FFFF _ _).1 (selected rfl sel)) rfl

theorem commandRows_restore (t : Transaction w) :
    ∀ r ∈ commandRows, r.selects t = true → Restores t (r.read t) := by
  simp only [commandRows, List.forall_mem_cons, List.not_mem_nil, false_imp_iff, implies_true, and_true]
  have selected {r : OpRow w} {m p : BitVec 16} (h : r.command = some (m, p)) (sel : r.selects t = true) :=
    (selects_of_command h t).1 sel
  refine ⟨fun sel => ?_, fun sel => ?_, fun sel => ?_, fun sel => ?_, fun sel => ?_, fun sel => ?_⟩
  all_goals
    obtain ⟨header, word⟩ := selected rfl sel
    rw [mask_FFFF] at header
  · exact restores_of_command header (full_word word) rfl
  · exact restores_of_command header (full_word word) rfl
  · exact restores_of_command header (inits_word word) rfl
  · exact restores_of_command header (initc_word word) rfl
  · exact restores_of_command header (full_word word) rfl
  · exact restores_of_command header (full_word word) rfl

/-- Settles O2: the row that the decoder found restores the transaction. -/
theorem decodedTransactionEncodesBack : Obligations.DecodedTransactionEncodesBack := by
  intro w _ t i decoded
  obtain ⟨r, mem, sel, rfl⟩ := decode_ok_iff.1 decoded
  exact (List.mem_append.1 mem).elim (fun access => accessRows_restore t r access sel)
    fun command => commandRows_restore t r command sel

end Sys2Proof

/-! PROOF. The engine left alone (42_frame.md R155 to R159, log entry 5): its moves neither read nor write the port's
answer, and each leaves one lane step fewer, so a run ends. -/

namespace Sys2Proof.Machine

variable {w : Nat}

/-! ### The moves, one and many -/

theorem runAlone_agenda (σ : State w) : σ.runAlone.agenda = σ.agenda := by
  obtain ⟨-, h⟩ | ⟨-, c, -, h⟩ | ⟨-, -, h⟩ := runAlone_cases σ <;> rw [h]
  · rfl
  · obtain ⟨-, -, h⟩ | ⟨-, h⟩ := complete_cases σ <;> rw [h]
    rfl

theorem complete_answer (σ : State w) (v : Word w) : (σ.answer v).complete = σ.complete.answer v := by
  have same : ((σ.answer v).busy && (σ.answer v).lanesFinished) = (σ.busy && σ.lanesFinished) := rfl
  unfold State.complete
  rw [same]
  split <;> rfl

theorem laneStep_answer (σ : State w) (v : Word w) (c : Fin 8) :
    (σ.answer v).laneStep c = (σ.laneStep c).answer v := by
  have same : (σ.answer v).laneEnabled c = σ.laneEnabled c := rfl
  unfold State.laneStep
  rw [same]
  split <;> rfl

/-- The word the port returned takes no part in the engine's moves. -/
theorem runAlone_answer (σ : State w) (v : Word w) : (σ.answer v).runAlone = σ.runAlone.answer v := by
  have offered : (σ.answer v).nextLane (Config.lanePick (σ.answer v).turn)
      = σ.nextLane (Config.lanePick σ.turn) := rfl
  unfold State.runAlone
  rw [offered, answer_busy]
  cases σ.busy with
  | false => rfl
  | true =>
    cases σ.nextLane (Config.lanePick σ.turn) with
    | none => exact complete_answer σ v
    | some c => exact congrArg (fun ρ : State w => { ρ with turn := σ.turn + 1 }) (laneStep_answer σ v c)

theorem iterate_runAlone_answer (m : Nat) (σ : State w) (v : Word w) :
    State.runAlone^[m] (σ.answer v) = (State.runAlone^[m] σ).answer v :=
  have commutes : Function.Semiconj (fun σ : State w => σ.answer v) State.runAlone State.runAlone :=
    fun σ => (runAlone_answer σ v).symm
  (commutes.iterate_right m σ).symm

theorem iterate_runAlone_agenda (m : Nat) (σ : State w) : (State.runAlone^[m] σ).agenda = σ.agenda := by
  induction m generalizing σ with
  | zero => rfl
  | succ m ih => exact (ih σ.runAlone).trans (runAlone_agenda σ)

theorem iterate_runAlone_idle (m : Nat) {σ : State w} (idle : σ.busy = false) : State.runAlone^[m] σ = σ :=
  Function.iterate_fixed (runAlone_idle idle) m

theorem nextTurn_alone {σ : State w} (alone : σ.agenda = []) : nextTurn σ = .next σ.runAlone := by
  simp only [nextTurn, alone]

theorem run_succ_of_next {M : Host.Core} {k : Nat} {s s' : M.State} (h : M.step s = .next s') :
    M.run (k + 1) s = M.run k s' := by
  rw [Host.Core.run, h]

/-- With no turn listed, `m` steps of the machine are `m` moves of the engine. -/
theorem run_alone (m : Nat) {σ : State w} (alone : σ.agenda = []) :
    (machineAt w).run m σ = .next (State.runAlone^[m] σ) := by
  induction m generalizing σ with
  | zero => rfl
  | succ m ih =>
    calc (machineAt w).run (m + 1) σ
        = (machineAt w).run m σ.runAlone := run_succ_of_next (M := machineAt w) (nextTurn_alone alone)
      _ = .next (State.runAlone^[m] σ.runAlone) := ih ((runAlone_agenda σ).trans alone)

/-! ### A run ends -/

/-- No lane is past `(32, 0)` (10_state.md R29). -/
def State.LanesLegal (σ : State w) : Prop := ∀ c, (σ.posAt c).n.val = 32 → (σ.posAt c).s.val = 0

theorem beginRun_lanesLegal (σ : State w) : σ.beginRun.LanesLegal := by
  simp [State.LanesLegal, Pos.first]

theorem lanesLegal_lane {σ : State w} (legal : σ.LanesLegal) {c : Fin 8} (unfinished : (σ.posAt c).n.val ≤ 31) :
    (σ.modChan c Channel.laneStep).LanesLegal := by
  intro d hd
  rw [modChan_posAt] at hd ⊢
  by_cases same : c = d
  · rw [if_pos same] at hd ⊢
    exact chLaneStep_pos_legal _ (Nat.lt_succ_of_le unfinished) hd
  · rw [if_neg same] at hd ⊢
    exact legal d hd

theorem chLaneStep_stepsLeft (ch : Channel w) (h : ch.pos.n.val < 32) :
    ch.laneStep.pos.stepsLeft + 1 = ch.pos.stepsLeft := by
  rw [chLaneStep_pos ch h]
  unfold Pos.stepsLeft
  by_cases last : ch.pos.s = 7
  · rw [if_pos last, last]
    simp only [Fin.val_succ]
    omega
  · rw [if_neg last]
    have advanced : (ch.pos.s + 1).val = ch.pos.s.val + 1 := by omega
    simp only [advanced]
    omega

theorem stepsLeft_eq_sum (σ : State w) : σ.stepsLeft = ∑ c, (σ.posAt c).stepsLeft :=
  (Fin.sum_univ_def _).symm

theorem stepsLeft_le (σ : State w) : σ.stepsLeft ≤ 2048 := by
  rw [stepsLeft_eq_sum]
  exact Finset.sum_le_card_nsmul _ _ 256 fun c _ => Nat.sub_le _ _

theorem stepsLeft_lane {σ : State w} {c : Fin 8} (unfinished : (σ.posAt c).n.val ≤ 31) :
    (σ.modChan c Channel.laneStep).stepsLeft + 1 = σ.stepsLeft := by
  have own : ((σ.modChan c Channel.laneStep).posAt c).stepsLeft + 1 = (σ.posAt c).stepsLeft := by
    rw [modChan_posAt, if_pos rfl]
    exact chLaneStep_stepsLeft _ (Nat.lt_succ_of_le unfinished)
  have others : ∀ d ∈ Finset.univ.erase c,
      ((σ.modChan c Channel.laneStep).posAt d).stepsLeft = (σ.posAt d).stepsLeft := by
    intro d hd
    rw [modChan_posAt, if_neg (Finset.ne_of_mem_erase hd).symm]
  rw [stepsLeft_eq_sum, stepsLeft_eq_sum, ← Finset.add_sum_erase _ _ (Finset.mem_univ c),
    ← Finset.add_sum_erase _ (fun d => (σ.posAt d).stepsLeft) (Finset.mem_univ c), Finset.sum_congr rfl others]
  omega

/-- A busy engine left alone takes one of the lane steps that are left, or, none being left, completes. -/
theorem runAlone_busy {σ : State w} (busy : σ.busy = true) (legal : σ.LanesLegal) :
    (σ.runAlone.busy = true ∧ σ.runAlone.LanesLegal ∧ σ.runAlone.stepsLeft + 1 = σ.stepsLeft)
      ∨ (σ.stepsLeft = 0 ∧ σ.runAlone = σ.endRun) := by
  obtain ⟨idle, -⟩ | ⟨-, c, unfinished, h⟩ | ⟨-, past, h⟩ := runAlone_cases σ
  · rw [busy] at idle
    cases idle
  · rw [h]
    exact .inl ⟨busy, lanesLegal_lane legal unfinished, stepsLeft_lane unfinished⟩
  · have finished (c : Fin 8) : σ.posAt c = Pos.finished := by
      have last : (σ.posAt c).n.val = 32 := by have := past c; omega
      have first := legal c last
      generalize σ.posAt c = p at last first
      obtain ⟨n, s⟩ := p
      rw [Pos.finished, Pos.mk.injEq]
      exact ⟨Fin.ext last, Fin.ext first⟩
    obtain ⟨-, -, ended⟩ | ⟨not, -⟩ := complete_cases σ
    · refine .inr ⟨?_, h.trans ended⟩
      rw [stepsLeft_eq_sum]
      exact Finset.sum_eq_zero fun c _ => by rw [finished c]; rfl
    · exact absurd ⟨busy, finished⟩ not

/-- A run is over after its lane steps and the completion step (42_frame.md R159). -/
theorem run_ends {m : Nat} {σ : State w} (busy : σ.busy = true) (legal : σ.LanesLegal) (enough : σ.stepsLeft < m) :
    (State.runAlone^[m] σ).busy = false := by
  induction m generalizing σ with
  | zero => cases enough
  | succ m ih =>
    rw [Function.iterate_succ_apply]
    obtain ⟨busy', legal', fewer⟩ | ⟨-, ended⟩ := runAlone_busy busy legal
    · exact ih busy' legal' (by omega)
    · rw [ended, iterate_runAlone_idle m rfl]
      rfl

end Sys2Proof.Machine

/-! PROOF. What a run leaves (42_frame.md R150, R157): FRAME runs each channel by itself, and the 256 steps of a lane
are its channel's frame, in whatever order the lanes take theirs. -/

namespace Sys2Proof.Machine

variable {w : Nat}

/-! ### FRAME channel by channel -/

theorem modChan_id (σ : State w) (c : Fin 8) : (σ.modChan c fun ch => ch) = σ := by
  simp [State.modChan]

/-- Writes of channel `c` one after the other are one write of it. -/
theorem foldl_cascade (l : List (Fin 32)) (σ : State w) (c : Fin 8) :
    l.foldl (fun σ n => σ.cascade c n) σ = σ.modChan c fun ch => l.foldl Channel.cascade ch := by
  induction l generalizing σ with
  | nil => exact (modChan_id σ c).symm
  | cons n l ih =>
    rw [List.foldl_cons, ih]
    exact modChan_modChan σ c _ _

theorem foldl_modChan_chan {l : List (Fin 8)} (nodup : l.Nodup) (σ : State w) (f : Channel w → Channel w)
    (d : Fin 8) :
    (l.foldl (fun σ c => σ.modChan c f) σ).chan[d.val] = if d ∈ l then f σ.chan[d.val] else σ.chan[d.val] := by
  induction l generalizing σ with
  | nil => rfl
  | cons c l ih =>
    obtain ⟨fresh, nodup⟩ := List.nodup_cons.1 nodup
    rw [List.foldl_cons, ih nodup, modChan_chan]
    by_cases same : c = d
    · subst same
      simp [fresh]
    · simp [same, Ne.symm same]

/-- The nested loop of 42_frame.md R150 is the frame of each channel. -/
theorem frame_chan (σ : State w) (d : Fin 8) : σ.frame.chan[d.val] = σ.chan[d.val].frame := by
  have channels : σ.frame = (List.finRange 8).foldl (fun σ c => σ.modChan c Channel.frame) σ := by
    simp only [State.frame, foldl_cascade]
    rfl
  rw [channels, foldl_modChan_chan (List.nodup_finRange 8), if_pos (List.mem_finRange d)]

theorem frameResult_chan (σ : State w) (d : Fin 8) :
    σ.frameResult[d.val] = { σ.chan[d.val].frame with pos := Pos.finished } := by
  simp [State.frameResult, frame_chan]

theorem cascades_pos (l : List (Fin 32)) (ch : Channel w) (p : Pos) :
    l.foldl Channel.cascade { ch with pos := p } = { l.foldl Channel.cascade ch with pos := p } := by
  induction l generalizing ch with
  | nil => rfl
  | cons n l ih => rw [List.foldl_cons, cascade_pos, ih, List.foldl_cons]

theorem frame_of_pos (ch : Channel w) (p : Pos) :
    Channel.frame { ch with pos := p } = { ch.frame with pos := p } :=
  cascades_pos (List.finRange 32) ch p

/-- Where the lanes stand takes no part in the frame: START's positions leave the result as it is. -/
theorem frameResult_beginRun (σ : State w) : σ.beginRun.frameResult = σ.frameResult := by
  apply vec_ext
  intro d
  rw [frameResult_chan, frameResult_chan, beginRun_chan, frame_of_pos]

/-! ### The lane's steps on its channel -/

/-- Eight steps a sample: after `8 * k` of them a lane has run the first `k` cascades. -/
theorem laneSteps_samples (ch : Channel w) (first : ch.pos = Pos.first) (k : Nat) (hk : k < 33) :
    Channel.laneStep^[8 * k] ch
      = { ((List.finRange 32).take k).foldl Channel.cascade ch with pos := { n := ⟨k, hk⟩, s := 0 } } := by
  induction k with
  | zero =>
    simp only [Nat.mul_zero, Function.iterate_zero, id_eq, List.take_zero, List.foldl_nil]
    exact congrArg (fun p => { ch with pos := p }) first
  | succ k ih =>
    rw [Nat.mul_succ, Nat.add_comm, Function.iterate_add_apply, ih (by omega), laneSteps_sample _ ⟨k, by omega⟩ rfl,
      cascade_pos, List.take_succ_eq_append_getElem (by simp; omega), List.foldl_append]
    simp

theorem laneSteps_frame (ch : Channel w) (first : ch.pos = Pos.first) :
    Channel.laneStep^[256] ch = { ch.frame with pos := Pos.finished } :=
  laneSteps_samples ch first 32 (by decide)

/-- A lane that has finished stays as it is. -/
theorem laneSteps_finished_le {ch : Channel w} {a b : Nat} (h : a ≤ b)
    (ha : (Channel.laneStep^[a] ch).pos = Pos.finished) : Channel.laneStep^[b] ch = Channel.laneStep^[a] ch := by
  rw [← Nat.sub_add_cancel h, Function.iterate_add_apply, Function.iterate_fixed (laneStep_finished _ ha)]

theorem laneSteps_finished {ch : Channel w} {k : Nat} (first : ch.pos = Pos.first)
    (finished : (Channel.laneStep^[k] ch).pos = Pos.finished) :
    Channel.laneStep^[k] ch = { ch.frame with pos := Pos.finished } := by
  have full := laneSteps_frame ch first
  rw [← full]
  obtain h | h := Nat.le_total k 256
  · exact (laneSteps_finished_le h finished).symm
  · exact laneSteps_finished_le h (by rw [full])

/-! ### The run of a busy engine -/

/-- The engine `τ` is in, or has completed, the frame run that `σ` stands in: every lane has taken some steps, and
only the completion step of finished lanes has made it idle. -/
structure Underway (σ τ : State w) : Prop where
  lanes : ∀ c : Fin 8, ∃ k, τ.chan[c.val] = Channel.laneStep^[k] σ.chan[c.val]
  ended : τ.busy = false → τ.done = true ∧ ∀ c, τ.posAt c = Pos.finished

theorem underway_of_busy {σ : State w} (busy : σ.busy = true) : Underway σ σ where
  lanes _ := ⟨0, rfl⟩
  ended idle := by rw [busy] at idle; cases idle

theorem underway_runAlone {σ τ : State w} (h : Underway σ τ) : Underway σ τ.runAlone := by
  obtain ⟨-, e⟩ | ⟨busy, c, -, e⟩ | ⟨-, -, e⟩ := runAlone_cases τ <;> rw [e]
  · exact h
  · refine ⟨fun d => ?_, fun idle => ?_⟩
    · obtain ⟨k, hk⟩ := h.lanes d
      change ∃ k, (τ.modChan c Channel.laneStep).chan[d.val] = _
      rw [modChan_chan]
      by_cases same : c = d
      · subst same
        exact ⟨k + 1, by rw [if_pos rfl, Function.iterate_succ_apply', hk]⟩
      · exact ⟨k, by rw [if_neg same, hk]⟩
    · exact absurd (busy.symm.trans idle) (by decide)
  · obtain ⟨-, finished, e⟩ | ⟨-, e⟩ := complete_cases τ <;> rw [e]
    · exact ⟨h.lanes, fun _ => ⟨rfl, by simpa using finished⟩⟩
    · exact h

theorem underway_iterate {σ : State w} (busy : σ.busy = true) (m : Nat) : Underway σ (State.runAlone^[m] σ) := by
  induction m with
  | zero => exact underway_of_busy busy
  | succ m ih =>
    rw [Function.iterate_succ_apply']
    exact underway_runAlone ih

/-- A run from START's positions leaves, once it has ended, what the sequential reference leaves. -/
theorem underway_frameResult {σ τ : State w} (h : Underway σ τ) (first : ∀ c, σ.posAt c = Pos.first)
    (idle : τ.busy = false) : τ.chan = σ.frameResult := by
  obtain ⟨-, finished⟩ := h.ended idle
  apply vec_ext
  intro c
  obtain ⟨k, hk⟩ := h.lanes c
  have last : (Channel.laneStep^[k] σ.chan[c.val]).pos = Pos.finished := hk ▸ finished c
  rw [frameResult_chan, hk]
  exact laneSteps_finished (first c) last

end Sys2Proof.Machine

/-! PROOF. WAIT and RUN (30_encoding.md R99): a poll shows `BUSY` and touches nothing of the run, so both leave what
their moves alone leave. -/

namespace Sys2Proof.Machine

variable {w : Nat}

/-- The state after one poll of `STATUS`. -/
def State.polled (σ : State w) : State w := σ.answer σ.statusWord

theorem poll_eq (hw : 16 ≤ w) (σ : State w) : poll σ = some σ.polled := by
  rw [poll, transact_of_decode (decode_encode hw _)]
  rfl

theorem sawBusy_polled (hw : 16 ≤ w) (σ : State w) : σ.polled.sawBusy = σ.busy := by
  have bit : slice σ.statusWord 0 0 = σ.busy.toNat := by
    have small := σ.busy.toNat_le
    rw [slice, statusWord_toNat hw]
    omega
  change (slice σ.statusWord 0 0 == 1) = σ.busy
  rw [bit]
  cases σ.busy <;> rfl

theorem letPass_alone (m : Nat) {σ : State w} (alone : σ.agenda = []) :
    letPass m σ = some (State.runAlone^[m] σ) := by
  rw [letPass, run_alone m alone]

/-- WAIT whose gaps let the run end leaves what that many moves leave, and its last poll: the moves of the gaps that
it no longer needs would change nothing, and the polls before the last are overwritten by it. -/
theorem waitIdle_eq (hw : 16 ≤ w) (gaps : List Nat) {σ : State w} (alone : σ.agenda = [])
    (ends : (State.runAlone^[gaps.sum] σ).busy = false) :
    waitIdle gaps σ = some (State.runAlone^[gaps.sum] σ).polled := by
  induction gaps generalizing σ with
  | nil =>
    have idle : σ.polled.sawBusy = false := (sawBusy_polled hw σ).trans ends
    simp [waitIdle, poll_eq hw, idle]
  | cons g gaps ih =>
    have seen : σ.polled.sawBusy = σ.busy := sawBusy_polled hw σ
    cases busy : σ.busy with
    | false =>
      rw [waitIdle, poll_eq hw]
      simp [seen, busy, iterate_runAlone_idle _ busy]
    | true =>
      have passed : letPass g σ.polled = some (State.runAlone^[g] σ.polled) := letPass_alone g alone
      have moved : State.runAlone^[gaps.sum] (State.runAlone^[g] σ.polled)
          = (State.runAlone^[(g :: gaps).sum] σ).answer σ.statusWord := by
        rw [← Function.iterate_add_apply, List.sum_cons, Nat.add_comm]
        exact iterate_runAlone_answer _ σ _
      have alone' : (State.runAlone^[g] σ.polled).agenda = [] := (iterate_runAlone_agenda g σ.polled).trans alone
      have rest := ih alone' (by rw [moved]; exact ends)
      rw [moved] at rest
      rw [waitIdle, poll_eq hw]
      simp only [seen, busy, if_true, passed]
      exact rest

/-- RUN from an idle engine is START and then one wait over all the moves. -/
theorem runFrame_eq (hw : 16 ≤ w) (first : Nat) (gaps : List Nat) {σ : State w} (alone : σ.agenda = [])
    (idle : σ.busy = false) (ends : (State.runAlone^[first + gaps.sum] σ.beginRun).busy = false) :
    runFrame first gaps σ = some (State.runAlone^[first + gaps.sum] σ.beginRun).polled := by
  have started : transact (encode .start) σ = .next σ.beginRun := by
    rw [transact_of_decode (decode_encode hw _)]
    exact congrArg _ (idleWrite_idle σ idle)
  have passed : letPass first σ.beginRun = some (State.runAlone^[first] σ.beginRun) := letPass_alone first alone
  have split : State.runAlone^[first + gaps.sum] σ.beginRun
      = State.runAlone^[gaps.sum] (State.runAlone^[first] σ.beginRun) := by
    rw [← Function.iterate_add_apply, Nat.add_comm]
  rw [split] at ends ⊢
  simp only [runFrame, started, passed]
  exact waitIdle_eq hw gaps ((iterate_runAlone_agenda first σ.beginRun).trans alone) ends

/-- Settles O51: WAIT and RUN leave what as many moves of the engine alone leave, and those end the run. -/
theorem waitTerminates : Obligations.WaitTerminates := by
  intro w hw σ alone
  refine ⟨fun gaps inv enough => ?_, fun first gaps idle enough => ?_⟩
  · have ends : (State.runAlone^[gaps.sum] σ).busy = false := by
      cases busy : σ.busy with
      | false => rw [iterate_runAlone_idle _ busy, busy]
      | true => exact run_ends busy (inv.lanes busy) (Nat.lt_of_lt_of_le (Nat.lt_succ_of_le (stepsLeft_le σ)) enough)
    exact ⟨_, waitIdle_eq hw gaps alone ends, ends, (sawBusy_polled hw _).trans ends,
      fun busy => ((underway_iterate busy gaps.sum).ended ends).1⟩
  · have ends : (State.runAlone^[first + gaps.sum] σ.beginRun).busy = false :=
      run_ends rfl (beginRun_lanesLegal σ) (Nat.lt_of_lt_of_le (Nat.lt_succ_of_le (stepsLeft_le _)) enough)
    have run : Underway σ.beginRun (State.runAlone^[first + gaps.sum] σ.beginRun) := underway_iterate rfl _
    exact ⟨_, runFrame_eq hw first gaps alone idle ends, ends, (run.ended ends).1, (sawBusy_polled hw _).trans ends,
      (underway_frameResult run (beginRun_posAt σ) ends).trans (frameResult_beginRun σ)⟩

end Sys2Proof.Machine

/-! PROOF. BIQUAD is modular arithmetic (40_biquad_stage.md R121 to R124): narrowing a sum once gives the wrapped
integer, and gives the word that the operations of bit vectors give. -/

namespace Sys2Proof.Machine

variable {w : Nat}

/-- The signed reading of a narrowed integer is the integer wrapped (00_scope.md R10). -/
theorem narrow_toInt (hw : 0 < w) (z : Int) : (narrow w z).toInt = wrap w z :=
  BitVec.toInt_ofInt_eq_self hw (neg_half_le_wrap w z) (wrap_lt_half hw z)

/-- Settles O35: each of the three results of `biquad` is one narrowed integer. -/
theorem biquadIsTheWrappedRecurrence : Obligations.BiquadIsTheWrappedRecurrence := by
  intro w q h x hw
  have positive : 0 < w := Nat.lt_of_lt_of_le (by decide) hw
  exact ⟨narrow_toInt positive _, narrow_toInt positive _, narrow_toInt positive _⟩

@[simp] theorem narrow_toInt_self (a : BitVec w) : narrow w a.toInt = a := by
  rw [narrow_eq_ofInt, BitVec.ofInt_toInt]

/-! ### Narrowing is a homomorphism from the integers to the words (40_biquad_stage.md R124) -/

theorem narrow_add (y z : Int) : narrow w (y + z) = narrow w y + narrow w z := by
  simp only [narrow_eq_ofInt, BitVec.ofInt_add]

theorem narrow_mul (y z : Int) : narrow w (y * z) = narrow w y * narrow w z := by
  simp only [narrow_eq_ofInt, BitVec.ofInt_mul]

theorem narrow_sub (y z : Int) : narrow w (y - z) = narrow w y - narrow w z := by
  rw [eq_sub_iff_add_eq, ← narrow_add, sub_add_cancel]

theorem biquad_eq (q : CoefSet w) (h : History w) (x : BitVec w) :
    biquad q h x =
      { y := q.b0 * x + h.s1
        hist :=
          { s1 := q.b1 * x - q.a1 * (q.b0 * x + h.s1) + h.s2
            s2 := q.b2 * x - q.a2 * (q.b0 * x + h.s1) } } := by
  simp only [biquad, narrow_add, narrow_sub, narrow_mul, narrow_toInt_self]

/-- Settles O36: narrowing once at the end is narrowing after every operation, since it is a homomorphism. -/
theorem biquadIsModularArithmetic : Obligations.BiquadIsModularArithmetic := fun _ => biquad_eq

end Sys2Proof.Machine

/-! PROOF. BIQUAD is confined to its stage (40_biquad_stage.md R130): which words of the address space, and which
lanes, stay as they were. -/

namespace Sys2Proof.Machine

variable {w : Nat} (σ : State w)

/-- What BIQUAD keeps of its channel, it keeps of every channel. -/
theorem biquad_keeps {α : Type} (view : Channel w → α) {s : Fin 8} (keeps : ∀ ch, view (ch.biquad s) = view ch)
    (c d : Fin 8) : view (σ.biquad c s).chan[d.val] = view σ.chan[d.val] := by
  rw [State.biquad, modChan_chan]
  split
  next same => rw [keeps, same]
  next => rfl

@[simp] theorem biquad_coefAt (c s d t : Fin 8) (k : Fin 5) : (σ.biquad c s).coefAt d t k = σ.coefAt d t k :=
  biquad_keeps σ (fun ch => (ch.coef[t]).get k) (fun _ => rfl) c d

@[simp] theorem biquad_inbufAt (c s d : Fin 8) (n : Fin 32) : (σ.biquad c s).inbufAt d n = σ.inbufAt d n :=
  biquad_keeps σ (fun ch => ch.inbuf[n]) (fun _ => rfl) c d

@[simp] theorem biquad_outbufAt (c s d : Fin 8) (n : Fin 32) : (σ.biquad c s).outbufAt d n = σ.outbufAt d n :=
  biquad_keeps σ (fun ch => ch.outbuf[n]) (fun _ => rfl) c d

@[simp] theorem biquad_posAt (c s d : Fin 8) : (σ.biquad c s).posAt d = σ.posAt d :=
  biquad_keeps σ Channel.pos (fun _ => rfl) c d

theorem biquad_chan_same (c s : Fin 8) : (σ.biquad c s).chan[c.val] = σ.chan[c.val].biquad s :=
  modChan_chan_same σ c _

theorem biquad_xAt_same (c s : Fin 8) :
    (σ.biquad c s).xAt c = (biquad σ.chan[c].coef[s] (σ.histPair c s) (σ.xAt c)).y :=
  congrArg Channel.x (biquad_chan_same σ c s)

theorem biquad_xAt_other {c d : Fin 8} (h : c ≠ d) (s : Fin 8) : (σ.biquad c s).xAt d = σ.xAt d :=
  congrArg Channel.x (modChan_chan_other σ h _)

theorem biquad_histPair_same (c s : Fin 8) :
    (σ.biquad c s).histPair c s = (biquad σ.chan[c].coef[s] (σ.histPair c s) (σ.xAt c)).hist := by
  simp only [State.histPair, State.xAt, Fin.getElem_fin, biquad_chan_same, chBiquad_hist, Vector.getElem_set_self]

theorem biquad_histPair_other {c s d t : Fin 8} (h : ¬(c = d ∧ s = t)) :
    (σ.biquad c s).histPair d t = σ.histPair d t := by
  by_cases same : c = d
  · subst same
    have stage : s ≠ t := fun e => h ⟨rfl, e⟩
    simp only [State.histPair, Fin.getElem_fin, biquad_chan_same, chBiquad_hist, set_get, if_neg stage]
  · exact congrArg (fun ch => ch.hist[t]) (modChan_chan_other σ same _)

/-- BIQUAD leaves every word of the address space alone but the history words of its stage. -/
theorem biquad_readRegion (c s : Fin 8) {r : Region} (other : ∀ j, r ≠ .hist c s j) :
    (σ.biquad c s).readRegion r = σ.readRegion r := by
  cases r with
  | coef d t k => exact biquad_coefAt σ c s d t k
  | hist d t j =>
    have stage : ¬(c = d ∧ s = t) := by
      rintro ⟨rfl, rfl⟩
      exact other j rfl
    exact congrArg (fun h => History.get h j) (biquad_histPair_other σ stage)
  | inbuf d n => exact biquad_inbufAt σ c s d n
  | outbuf d n => exact biquad_outbufAt σ c s d n
  | cmd | status | config | width => rfl

theorem biquad_peek (c s : Fin 8) {a : Addr} (other : ∀ j : Fin 2, a.toNat ≠ histAddr c s j) :
    (σ.biquad c s).peek a = σ.peek a := by
  cases region : regionOf a with
  | none => simp only [State.peek, region]
  | some r =>
    rw [peek_of_region region, peek_of_region region]
    refine biquad_readRegion σ c s fun j same => other j ?_
    exact (regionOf_hist a c s j).1 (same ▸ region)

/-- Settles O37: the two outputs, and the frame word by word. -/
theorem biquadChangesOnlyItsStage : Obligations.BiquadChangesOnlyItsStage := by
  intro w σ c s
  refine ⟨biquad_xAt_same σ c s, biquad_histPair_same σ c s, fun a first second => biquad_peek σ c s ?_,
    fun d h => biquad_xAt_other σ h.symm s, biquad_posAt σ c s, ⟨rfl, rfl⟩, rfl, rfl, rfl, rfl, rfl⟩
  exact Fin.forall_fin_two.2 ⟨first, second⟩

end Sys2Proof.Machine

/-! PROOF. Zero and identity (40_biquad_stage.md R131, 41_cascade.md R144): a sample that every stage passes on,
keeping its history, goes through the whole cascade. -/

namespace Sys2Proof.Machine

variable {w : Nat}

theorem biquad_zero (q : CoefSet w) : biquad q ⟨0, 0⟩ 0 = ⟨0, ⟨0, 0⟩⟩ := by
  simp [biquad_eq]

theorem biquad_identity (x : BitVec w) : biquad ⟨1, 0, 0, 0, 0⟩ ⟨0, 0⟩ x = ⟨x, ⟨0, 0⟩⟩ := by
  simp [biquad_eq]

/-- A stage that passes the sample in flight on and keeps its history leaves the channel as it is. -/
theorem chBiquad_of_passes {ch : Channel w} {s : Fin 8}
    (passes : biquad ch.coef[s] ch.hist[s] ch.x = ⟨ch.x, ch.hist[s]⟩) : ch.biquad s = ch := by
  simp only [Fin.getElem_fin] at passes
  simp [Channel.biquad, passes]

/-- Where every stage passes the input sample on, CASCADE copies it to the output. -/
theorem cascade_of_passes {ch : Channel w} {n : Fin 32}
    (passes : ∀ s : Fin 8, biquad ch.coef[s] ch.hist[s] ch.inbuf[n] = ⟨ch.inbuf[n], ch.hist[s]⟩) :
    ch.cascade n = (ch.load n).store n := by
  have stages : (List.finRange 8).foldl Channel.biquad (ch.load n) = ch.load n :=
    List.foldl_fixed' (fun s => chBiquad_of_passes (ch := ch.load n) (passes s)) _
  rw [Channel.cascade, stages]

theorem cascade_outbuf_hist_of_passes {ch : Channel w} {n : Fin 32}
    (passes : ∀ s : Fin 8, biquad ch.coef[s] ch.hist[s] ch.inbuf[n] = ⟨ch.inbuf[n], ch.hist[s]⟩) :
    (ch.cascade n).outbuf[n] = ch.inbuf[n] ∧ (ch.cascade n).hist = ch.hist := by
  rw [cascade_of_passes passes]
  exact ⟨by simp, rfl⟩

/-- Settles O39: in both cases every stage of zero history passes the sample on. -/
theorem zeroAndIdentityPassThrough : Obligations.ZeroAndIdentityPassThrough := by
  refine ⟨fun _ => biquad_zero, fun _ => biquad_identity, fun w ch n zero => ⟨fun silent => ?_, fun identity => ?_⟩⟩
  · have passes (s : Fin 8) : biquad ch.coef[s] ch.hist[s] ch.inbuf[n] = ⟨ch.inbuf[n], ch.hist[s]⟩ := by
      rw [zero s, silent, biquad_zero]
    exact silent ▸ cascade_outbuf_hist_of_passes passes
  · refine cascade_outbuf_hist_of_passes fun s => ?_
    rw [zero s, identity s, biquad_identity]

end Sys2Proof.Machine

/-! PROOF. CASCADE is the chain of its stages (41_cascade.md R140 to R143): a run of BIQUADs carries only the sample
in flight and the histories, so it is the fold of `filterSample` inside a channel that is otherwise fixed. -/

namespace Sys2Proof.Machine

variable {w : Nat}

/-- A channel with another sample in flight and other histories: what a run of stages can make of it. -/
def Channel.withFlow (ch : Channel w) (flow : BitVec w × Vector (History w) 8) : Channel w :=
  { ch with x := flow.1, hist := flow.2 }

/-- BIQUAD takes its coefficients from the fixed part of the channel and its sample and history from the flow. -/
theorem withFlow_biquad (ch : Channel w) (flow : BitVec w × Vector (History w) 8) (s : Fin 8) :
    (ch.withFlow flow).biquad s =
      ch.withFlow ((biquad ch.coef[s] flow.2[s] flow.1).y,
        flow.2.set s (biquad ch.coef[s] flow.2[s] flow.1).hist) := rfl

theorem load_eq_withFlow (ch : Channel w) (n : Fin 32) : ch.load n = ch.withFlow (ch.inbuf[n], ch.hist) := rfl

/-- The eight stages in order compute `filterSample` on the flow. -/
theorem stages_withFlow (ch : Channel w) (x : BitVec w) (h : Vector (History w) 8) :
    (List.finRange 8).foldl Channel.biquad (ch.withFlow (x, h)) = ch.withFlow (filterSample ch.coef h x) :=
  List.foldl_hom ch.withFlow (withFlow_biquad ch)

theorem cascade_eq (ch : Channel w) (n : Fin 32) :
    ch.cascade n = (ch.withFlow (filterSample ch.coef ch.hist ch.inbuf[n])).store n := by
  rw [Channel.cascade, load_eq_withFlow, stages_withFlow]

/-- Settles O38: the chain of the stages leaves its flow in the channel, and the store copies the last output. -/
theorem cascadeIsTheChainOfStages : Obligations.CascadeIsTheChainOfStages := fun _ => cascade_eq

end Sys2Proof.Machine

/-! PROOF. FRAME is the filter of a stream (42_frame.md R150, R162, R164): one channel's frame sends its 32 input
samples, in order, through `filterStream`, which carries the histories on from one frame to the next. -/

namespace Sys2Proof.Machine

variable {w : Nat}

/-! ### FRAME on the whole state -/

theorem foldl_modChan (l : List (Fin 8)) (σ : State w) (f : Channel w → Channel w) :
    l.foldl (fun σ c => σ.modChan c f) σ = { σ with chan := (l.foldl (fun σ c => σ.modChan c f) σ).chan } := by
  induction l generalizing σ with
  | nil => rfl
  | cons c l ih => exact ih (σ.modChan c f)

theorem frame_changes_only_chan (σ : State w) : σ.frame = { σ with chan := σ.frame.chan } := by
  simp only [State.frame, foldl_cascade]
  exact foldl_modChan _ σ _

/-- Settles O40: the nested loop writes channels alone, and each is left as its own frame. -/
theorem frameActsChannelByChannel : Obligations.FrameActsChannelByChannel := by
  intro w σ
  have channels : σ.frame.chan = σ.chan.map Channel.frame := vec_ext fun d => by simp [frame_chan]
  exact channels ▸ frame_changes_only_chan σ

/-! ### One channel's frame as a stream -/

theorem cascade_outbuf_same (ch : Channel w) (n : Fin 32) :
    (ch.cascade n).outbuf[n.val] = (filterSample ch.coef ch.hist ch.inbuf[n.val]).1 := by
  simp [cascade_eq, Channel.withFlow]

theorem cascade_hist (ch : Channel w) (n : Fin 32) :
    (ch.cascade n).hist = (filterSample ch.coef ch.hist ch.inbuf[n.val]).2 := by
  rw [cascade_eq]
  rfl

/-- Cascades of other samples leave an output word alone. -/
theorem cascades_outbuf_other {l : List (Fin 32)} {n : Fin 32} (other : n ∉ l) (ch : Channel w) :
    (l.foldl Channel.cascade ch).outbuf[n.val] = ch.outbuf[n.val] := by
  induction l generalizing ch with
  | nil => rfl
  | cons m l ih =>
    obtain ⟨ne, other⟩ := not_or.1 (List.mem_cons.not.1 other)
    rw [List.foldl_cons, ih other, chCascade_outbuf, set_get, if_neg (Ne.symm ne)]

/-- Cascades of distinct samples filter their inputs in order: the outputs stand at the same samples, and the
histories are those the stream leaves. -/
theorem cascades_eq_filterStream {l : List (Fin 32)} (nodup : l.Nodup) (ch : Channel w) :
    (l.map fun n => (l.foldl Channel.cascade ch).outbuf[n.val], (l.foldl Channel.cascade ch).hist)
      = filterStream ch.coef ch.hist (l.map fun n => ch.inbuf[n.val]) := by
  induction l generalizing ch with
  | nil => rfl
  | cons n l ih =>
    obtain ⟨fresh, nodup⟩ := List.nodup_cons.1 nodup
    have rest := ih nodup (ch.cascade n)
    rw [chCascade_coef, chCascade_inbuf, cascade_hist] at rest
    simp only [List.map_cons, List.foldl_cons, filterStream, ← rest, cascades_outbuf_other fresh, cascade_outbuf_same]

theorem map_finRange_getElem {α : Type} {n : Nat} (v : Vector α n) :
    ((List.finRange n).map fun i => v[i.val]) = v.toList := by
  rw [← List.ofFn_eq_map]
  apply List.ext_getElem <;> simp

/-- One frame of a channel filters its input frame as a stream (42_frame.md R150, R164). -/
theorem frame_eq_filterStream (ch : Channel w) :
    (ch.frame.outbuf.toList, ch.frame.hist) = filterStream ch.coef ch.hist ch.inbuf.toList := by
  have filtered := cascades_eq_filterStream (List.nodup_finRange 32) ch
  rw [map_finRange_getElem, map_finRange_getElem] at filtered
  exact filtered

/-! ### The stream across frames -/

theorem filterStream_append (q : Vector (CoefSet w) 8) (h : Vector (History w) 8) (xs ys : List (BitVec w)) :
    filterStream q h (xs ++ ys)
      = ((filterStream q h xs).1 ++ (filterStream q (filterStream q h xs).2 ys).1,
          (filterStream q (filterStream q h xs).2 ys).2) := by
  induction xs generalizing h with
  | nil => rfl
  | cons x xs ih => simp only [List.cons_append, filterStream, ih]

/-- Settles O43: by induction over the frames, each taking up the histories the one before it left. -/
theorem streamHasNoFrameBoundary : Obligations.StreamHasNoFrameBoundary := by
  intro w ch bs
  induction bs generalizing ch with
  | nil => rfl
  | cons b bs ih =>
    have first := frame_eq_filterStream { ch with inbuf := b }
    have rest := ih (Channel.frame { ch with inbuf := b })
    rw [chFrame_coef] at rest
    simp only [Channel.frames, List.flatMap_cons, filterStream_append, ← first, ← rest]

/-! ### What a channel's frame depends on -/

/-- Settles O41: the stream is a function of the channel's own coefficients, histories and input. -/
theorem channelsAreIndependent : Obligations.ChannelsAreIndependent := by
  intro w σ τ c d coef hist inbuf
  simp only [Fin.getElem_fin] at coef hist inbuf ⊢
  have same : (σ.chan[c.val].frame.outbuf.toList, σ.chan[c.val].frame.hist)
      = (τ.chan[d.val].frame.outbuf.toList, τ.chan[d.val].frame.hist) := by
    rw [frame_eq_filterStream, frame_eq_filterStream, coef, hist, inbuf]
  obtain ⟨out, left⟩ := Prod.mk.inj same
  rw [frame_chan, frame_chan]
  exact ⟨Vector.toList_inj.1 out, left⟩

theorem filterSample_zero (q : Vector (CoefSet w) 8) :
    filterSample q (Vector.replicate 8 (History.zero w)) 0 = (0, Vector.replicate 8 (History.zero w)) := by
  refine List.foldl_fixed' (fun s => ?_) _
  have passes : biquad q[s] (Vector.replicate 8 (History.zero w))[s] 0 = ⟨0, History.zero w⟩ := by
    rw [Fin.getElem_fin, Fin.getElem_fin, Vector.getElem_replicate]
    exact biquad_zero _
  simp only [passes]
  exact congrArg (Prod.mk 0) Vector.set_replicate_self

theorem filterStream_zero (q : Vector (CoefSet w) 8) (m : Nat) :
    filterStream q (Vector.replicate 8 (History.zero w)) (List.replicate m 0)
      = (List.replicate m 0, Vector.replicate 8 (History.zero w)) := by
  induction m with
  | zero => rfl
  | succ m ih => simp only [List.replicate_succ, filterStream, filterSample_zero, ih]

theorem history_eq_zero {h : History w} (zero : ∀ j, h.get j = 0) : h = History.zero w := by
  obtain ⟨s1, s2⟩ := h
  exact congrArg₂ History.mk (zero 0) (zero 1)

/-- A silent frame into a channel at rest leaves silence and rest (42_frame.md R162). -/
theorem frame_zero {ch : Channel w} (rest : ch.hist = Vector.replicate 8 (History.zero w))
    (silent : ch.inbuf = Vector.replicate 32 0) :
    ch.frame.outbuf = Vector.replicate 32 0 ∧ ch.frame.hist = Vector.replicate 8 (History.zero w) := by
  have filtered := frame_eq_filterStream ch
  rw [rest, silent, Vector.toList_replicate, filterStream_zero] at filtered
  obtain ⟨out, left⟩ := Prod.mk.inj filtered
  exact ⟨Vector.toList_inj.1 (out.trans Vector.toList_replicate.symm), left⟩

/-- Settles O42: zero through the stream at zero history stays zero. -/
theorem zeroInputStaysZero : Obligations.ZeroInputStaysZero := by
  intro w σ c zeroHist zeroIn
  have rest : σ.chan[c.val].hist = Vector.replicate 8 (History.zero w) :=
    vec_ext fun s => by
      rw [Vector.getElem_replicate]
      exact history_eq_zero (zeroHist s)
  have silent : σ.chan[c.val].inbuf = Vector.replicate 32 0 := vec_ext fun n => by
    rw [Vector.getElem_replicate]
    exact zeroIn n
  obtain ⟨out, left⟩ := frame_zero rest silent
  refine ⟨fun n => ?_, fun s j => ?_⟩
  · simp [State.outbufAt, frame_chan, out]
  · simp [State.histAt, State.histPair, frame_chan, left]

end Sys2Proof.Machine

/-! PROOF. The lanes (42_frame.md R155 to R157, R159): what one lane step writes, that steps of two lanes commute, that
the steps a run has left are counted down to its completion, and that every interleaving of the lanes gives the
frame. -/

namespace Sys2Proof.Machine

variable {w : Nat}

/-! ### One lane step -/

/-- A lane step, word by word (42_frame.md R155): the evaluation `r` of stage `pos.s` on the sample `x`. -/
theorem chLaneStep_eq {ch : Channel w} (h : ch.pos.n.val < 32) {x : BitVec w} {r : StageOut w}
    (hx : x = if ch.pos.s = 0 then ch.inbuf[ch.pos.n.val] else ch.x)
    (hr : r = biquad ch.coef[ch.pos.s] ch.hist[ch.pos.s] x) :
    ch.laneStep =
      { ch with
        hist := ch.hist.set ch.pos.s r.hist
        outbuf := if ch.pos.s = 7 then ch.outbuf.set ch.pos.n.val r.y else ch.outbuf
        x := r.y
        pos := ch.laneStep.pos } := by
  subst hr hx
  unfold Channel.laneStep
  rw [dif_pos h]
  by_cases first : ch.pos.s = 0
  · simp only [first]
    rfl
  · by_cases last : ch.pos.s = 7
    · simp only [last]
      rfl
    · simp only [if_neg first, if_neg last]
      rfl

theorem laneStep_enabled {σ : State w} {c : Fin 8} (busy : σ.busy = true) (unfinished : (σ.posAt c).n.val ≤ 31) :
    σ.laneStep c = σ.modChan c Channel.laneStep :=
  if_pos ((laneEnabled_iff σ c).2 ⟨busy, unfinished⟩)

theorem laneStep_disabled {σ : State w} {c : Fin 8} (h : ¬(σ.busy = true ∧ (σ.posAt c).n.val ≤ 31)) :
    σ.laneStep c = σ :=
  if_neg fun enabled => h ((laneEnabled_iff σ c).1 enabled)

/-- A lane step leaves every word alone but the history of its stage and, after stage 7, its sample's output. -/
theorem lane_readRegion {σ : State w} {c : Fin 8} (unfinished : (σ.posAt c).n.val ≤ 31) {r : Region}
    (hist : ∀ j, r ≠ .hist c (σ.posAt c).s j)
    (out : (σ.posAt c).s = 7 → ∀ n, n.val = (σ.posAt c).n.val → r ≠ .outbuf c n) :
    (σ.modChan c Channel.laneStep).readRegion r = σ.readRegion r := by
  by_contra changed
  cases r with
  | coef d t k => exact changed (lane_coefAt σ c d t k)
  | hist d t j =>
    have pair : (σ.modChan c Channel.laneStep).histPair d t ≠ σ.histPair d t :=
      fun same => changed (congrArg (fun h => History.get h j) same)
    obtain ⟨rfl, rfl⟩ := lane_histPair σ unfinished pair
    exact hist j rfl
  | inbuf d n => exact changed (lane_inbufAt σ c d n)
  | outbuf d n =>
    obtain ⟨rfl, sample, last⟩ := lane_outbufAt σ unfinished changed
    exact out last n sample.symm rfl
  | cmd | status | config | width => exact changed rfl

theorem lane_peek {σ : State w} {c : Fin 8} (unfinished : (σ.posAt c).n.val ≤ 31) {a : Addr}
    (hist : ∀ j : Fin 2, a.toNat ≠ histAddr c (σ.posAt c).s j)
    (out : (σ.posAt c).s = 7 → a.toNat ≠ outbufAddr c (σ.posAt c).n) :
    (σ.modChan c Channel.laneStep).peek a = σ.peek a := by
  cases region : regionOf a with
  | none => simp only [State.peek, region]
  | some r =>
    rw [peek_of_region region, peek_of_region region]
    refine lane_readRegion unfinished (fun j same => hist j ?_) (fun last n sample same => out last ?_)
    · exact (regionOf_hist a c _ j).1 (same ▸ region)
    · exact sample ▸ (regionOf_outbuf a c n).1 (same ▸ region)

theorem chLaneStep_pos_last (ch : Channel w) (h : ch.pos.n.val < 32) (last : ch.pos.s = 7) :
    ch.laneStep.pos.n.val = ch.pos.n.val + 1 ∧ ch.laneStep.pos.s = 0 := by
  rw [chLaneStep_pos ch h, if_pos last]
  exact ⟨rfl, rfl⟩

theorem chLaneStep_pos_inner (ch : Channel w) (h : ch.pos.n.val < 32) (inner : ch.pos.s ≠ 7) :
    ch.laneStep.pos.n = ch.pos.n ∧ ch.laneStep.pos.s.val = ch.pos.s.val + 1 := by
  rw [chLaneStep_pos ch h, if_neg inner]
  exact ⟨rfl, by simp only; omega⟩

/-- Settles O44: the step's effect word by word, and the frame by the address map. -/
theorem laneStepIsOneEvaluation : Obligations.LaneStepIsOneEvaluation := by
  intro w σ c
  refine ⟨laneStep_disabled, ?_⟩
  rintro unfinished busy x s r rfl hx hr
  have within : (σ.posAt c).n.val ≤ 31 := Nat.le_of_lt_succ unfinished
  have effect := (modChan_chan_same σ c Channel.laneStep).trans (chLaneStep_eq unfinished hx hr)
  rw [laneStep_enabled busy within]
  refine ⟨congrArg Channel.x effect, ?_, fun last => ⟨?_, ?_⟩, fun inner => ?_, fun a first second out => ?_,
    fun d other => ?_, ⟨rfl, rfl⟩, rfl, rfl, rfl, rfl, rfl⟩
  · exact (congrArg (fun ch => ch.hist[(σ.posAt c).s]) effect).trans (Vector.getElem_set_self _)
  · have stored : ((σ.modChan c Channel.laneStep).chan[c.val]).outbuf = _ :=
      (congrArg Channel.outbuf effect).trans (if_pos last)
    simp only [State.outbufAt, Fin.getElem_fin, stored]
    exact Vector.getElem_set_self _
  · rw [modChan_posAt, if_pos rfl]
    exact chLaneStep_pos_last _ unfinished last
  · rw [modChan_posAt, if_pos rfl]
    exact chLaneStep_pos_inner _ unfinished inner
  · exact lane_peek within (Fin.forall_fin_two.2 ⟨first, second⟩) out
  · have kept : (σ.modChan c Channel.laneStep).chan[d.val] = σ.chan[d.val] := modChan_chan_other σ other.symm _
    exact ⟨congrArg Channel.x kept, congrArg Channel.pos kept⟩

/-! ### Steps of two lanes -/

theorem laneEnabled_laneStep {c d : Fin 8} (h : c ≠ d) (σ : State w) :
    (σ.laneStep c).laneEnabled d = σ.laneEnabled d := by
  obtain ⟨-, -, e⟩ | ⟨-, e⟩ := laneStep_cases σ c <;> rw [e]
  have pos : (σ.modChan c Channel.laneStep).posAt d = σ.posAt d := by rw [modChan_posAt, if_neg h]
  simp only [State.laneEnabled, modChan_busy, pos]

theorem laneStep_eq_modChan (σ : State w) (c : Fin 8) :
    σ.laneStep c = σ.modChan c (if σ.laneEnabled c then Channel.laneStep else fun ch => ch) := by
  unfold State.laneStep
  split
  · rfl
  · exact (modChan_id σ c).symm

/-- Settles O45: neither step enables or disables the other, and they write different channels. -/
theorem laneStepsCommute : Obligations.LaneStepsCommute := by
  intro w σ c d
  by_cases h : c = d
  · rw [h]
  · rw [laneStep_eq_modChan (σ.laneStep c), laneEnabled_laneStep h, laneStep_eq_modChan (σ.laneStep d),
      laneEnabled_laneStep (Ne.symm h), laneStep_eq_modChan σ c, laneStep_eq_modChan σ d]
    exact modChan_comm σ h _ _

/-! ### The run of an engine left alone -/

/-- While lane steps are left, every move takes one of them. -/
theorem iterate_runAlone_busy {σ : State w} (busy : σ.busy = true) (legal : σ.LanesLegal) {k : Nat}
    (hk : k ≤ σ.stepsLeft) :
    (State.runAlone^[k] σ).busy = true ∧ (State.runAlone^[k] σ).LanesLegal
      ∧ (State.runAlone^[k] σ).stepsLeft + k = σ.stepsLeft := by
  induction k with
  | zero => exact ⟨busy, legal, rfl⟩
  | succ k ih =>
    obtain ⟨busy, legal, left⟩ := ih (Nat.le_of_succ_le hk)
    rw [Function.iterate_succ_apply']
    obtain ⟨busy', legal', fewer⟩ | ⟨none, -⟩ := runAlone_busy busy legal
    · exact ⟨busy', legal', by omega⟩
    · omega

/-- Settles O49: the moves count the steps left down, and the move after the last step is the completion. -/
theorem runEndsByItself : Obligations.RunEndsByItself := by
  intro w σ inv busy alone
  have legal : σ.LanesLegal := inv.lanes busy
  have ends : (State.runAlone^[σ.stepsLeft + 1] σ).busy = false := run_ends busy legal (Nat.lt_succ_self _)
  exact ⟨stepsLeft_le σ, fun k hk => ⟨_, run_alone k alone, (iterate_runAlone_busy busy legal hk).1⟩,
    _, run_alone _ alone, ends, ((underway_iterate busy _).ended ends).1⟩

theorem runAlone_keeps_error_and_reply (σ : State w) :
    σ.runAlone.errcode = σ.errcode ∧ σ.runAlone.reply = σ.reply := by
  obtain ⟨-, h⟩ | ⟨-, c, -, h⟩ | ⟨-, -, h⟩ := runAlone_cases σ <;> rw [h]
  · exact ⟨rfl, rfl⟩
  · exact ⟨rfl, rfl⟩
  · obtain ⟨-, -, h⟩ | ⟨-, h⟩ := complete_cases σ <;> rw [h]
    · exact ⟨rfl, rfl⟩
    · exact ⟨rfl, rfl⟩

theorem iterate_runAlone_keeps_error_and_reply (m : Nat) (σ : State w) :
    (State.runAlone^[m] σ).errcode = σ.errcode ∧ (State.runAlone^[m] σ).reply = σ.reply := by
  induction m generalizing σ with
  | zero => exact ⟨rfl, rfl⟩
  | succ m ih =>
    obtain ⟨code, reply⟩ := runAlone_keeps_error_and_reply σ
    exact ⟨(ih σ.runAlone).1.trans code, (ih σ.runAlone).2.trans reply⟩

theorem lanesLegal_of_first {σ : State w} (first : ∀ c, σ.posAt c = Pos.first) : σ.LanesLegal :=
  fun c _ => by rw [first c]; rfl

/-- Settles O50: 2049 moves end the run, whatever lanes they pick, and an ended run leaves the frame. -/
theorem freeChoiceGivesTheFrame : Obligations.FreeChoiceGivesTheFrame := by
  intro w σ busy first alone
  have ends : (State.runAlone^[2049] σ).busy = false :=
    run_ends busy (lanesLegal_of_first first) (Nat.lt_succ_of_le (stepsLeft_le σ))
  have run : Underway σ (State.runAlone^[2049] σ) := underway_iterate busy 2049
  exact ⟨_, run_alone 2049 alone, underway_frameResult run first ends, ends, (run.ended ends).1,
    iterate_runAlone_keeps_error_and_reply 2049 σ⟩

/-! ### Any schedule -/

theorem chLaneStep_of_past {ch : Channel w} (past : ¬ch.pos.n.val ≤ 31) : ch.laneStep = ch :=
  dif_neg fun h => past (Nat.le_of_lt_succ h)

/-- A lane's turn on a busy engine is the step of its channel, which is none for a lane that has finished. -/
theorem laneStep_chan {σ : State w} (busy : σ.busy = true) (c d : Fin 8) :
    (σ.laneStep c).chan[d.val] = if c = d then σ.chan[d.val].laneStep else σ.chan[d.val] := by
  obtain ⟨-, -, e⟩ | ⟨disabled, e⟩ := laneStep_cases σ c <;> rw [e]
  · rw [modChan_chan]
    split
    next same => rw [same]
    next => rfl
  · split
    next same =>
      have past : ¬(σ.posAt c).n.val ≤ 31 := fun h => disabled ⟨busy, h⟩
      exact (chLaneStep_of_past (same ▸ past)).symm
    next => rfl

/-- The engine `τ`, still busy, is what `σ` becomes when each lane `c` has had `turns c` turns. -/
structure AfterTurns (σ : State w) (turns : Fin 8 → Nat) (τ : State w) : Prop where
  busy : τ.busy = true
  lanes : ∀ c : Fin 8, τ.chan[c.val] = Channel.laneStep^[turns c] σ.chan[c.val]

theorem laneStep_busy (σ : State w) (c : Fin 8) : (σ.laneStep c).busy = σ.busy := by
  rw [laneStep_eq_modChan, modChan_busy]

theorem laneStep_agenda (σ : State w) (c : Fin 8) : (σ.laneStep c).agenda = σ.agenda := by
  rw [laneStep_eq_modChan, modChan_agenda]

theorem takeTurn_midRun {σ : State w} (busy : σ.busy = true) {u : Turn w} (mid : midRun u = true) :
    ∃ τ, takeTurn u σ = .next τ ∧ τ.agenda = σ.agenda ∧ AfterTurns σ (fun c => [u].count (.lane c)) τ := by
  cases u with
  | host t =>
    obtain ⟨f, hf, acts⟩ := transact_uniform (t := t) (by simpa [midRun] using mid)
    have kept : sameButError σ (f σ) := busyEffect_sameButError hf σ
    have noLane (c : Fin 8) : [Turn.host t].count (.lane c) = 0 := by simp
    refine ⟨f σ, acts σ busy, ?_, ?_, fun c => ?_⟩ <;> rw [kept]
    · exact busy
    · rw [noLane]
      rfl
  | lane d =>
    refine ⟨σ.laneStep d, rfl, laneStep_agenda σ d, (laneStep_busy σ d).trans busy, fun c => ?_⟩
    rw [laneStep_chan busy]
    by_cases same : d = c <;> simp [same]
  | complete => cases mid
  | reset => cases mid

/-- A schedule of a run in progress gives every lane its turns, in whatever order and whatever the host issues. -/
theorem run_midRun {us rest : List (Turn w)} {σ : State w} (busy : σ.busy = true) (agenda : σ.agenda = us ++ rest)
    (mid : ∀ u ∈ us, midRun u = true) :
    ∃ τ, (machineAt w).run us.length σ = .next τ ∧ τ.agenda = rest
      ∧ AfterTurns σ (fun c => us.count (.lane c)) τ := by
  induction us generalizing σ with
  | nil => exact ⟨σ, rfl, agenda, busy, fun _ => rfl⟩
  | cons u us ih =>
    obtain ⟨now, later⟩ := List.forall_mem_cons.1 mid
    obtain ⟨ρ, took, popped, moved⟩ := takeTurn_midRun (σ := { σ with agenda := us ++ rest }) busy now
    have step : nextTurn σ = .next ρ := by simp only [nextTurn, agenda, List.cons_append, took]
    obtain ⟨τ, ran, left, done⟩ := ih moved.busy popped later
    refine ⟨τ, (run_succ_of_next (M := machineAt w) step).trans ran, left, done.busy, fun c => ?_⟩
    have turns : (u :: us).count (.lane c) = us.count (.lane c) + [u].count (.lane c) :=
      (List.count_append (l₁ := [u])).trans (Nat.add_comm _ _)
    rw [done.lanes, moved.lanes, ← Function.iterate_add_apply, turns]

/-- Settles O46: every lane has had its 256 steps, which are its frame, and its further turns pass. -/
theorem everyScheduleGivesTheFrame : Obligations.EveryScheduleGivesTheFrame := by
  intro w σ us rest busy first agenda mid enough
  obtain ⟨τ, ran, left, done⟩ := run_midRun busy agenda mid
  refine ⟨τ, ran, vec_ext fun c => ?_, done.busy, left⟩
  have full := laneSteps_frame σ.chan[c.val] (first c)
  rw [frameResult_chan, done.lanes, laneSteps_finished_le (enough c) (by rw [full]), full]

end Sys2Proof.Machine

/-! PROOF. What the transaction procedure does where it is decided (43_host_access.md R170): at a reserved address, at a
read-only location, at a control register, and, past the busy check, at the words a host may access. The machine's
refusals are said in the same terms, with the code the first error leaves (60_exceptions.md R213, R215). -/

namespace Sys2Proof.Machine

variable {w : Nat} {σ : State w}

/-! ### Errors as record updates -/

theorem raise_eq (σ : State w) (e : Err) : σ.raise e = { σ with errcode := firstError σ.errcode e.code } := by
  rw [raise_frame, raise_errcode, firstError]

theorem refuse_eq (σ : State w) (t : Transaction w) (e : Err) :
    σ.refuse t e = { σ with
      errcode := firstError σ.errcode e.code
      reply := if t.isWrite then σ.reply else some 0 } := by
  rw [refuse_frame, raise_errcode, firstError]

theorem idleWrite_refused {f : State w → State w} (busy : σ.busy = true) :
    σ.idleWrite f = { σ with errcode := firstError σ.errcode 3 } :=
  (idleWrite_busy σ busy).trans (raise_eq σ .busy)

theorem raiseRead_eq (σ : State w) (e : Err) :
    σ.raiseRead e = { σ with errcode := firstError σ.errcode e.code, reply := some 0 } := by
  rw [raiseRead_frame, raise_errcode, firstError]

theorem idleRead_refused {v : State w → Word w} (busy : σ.busy = true) :
    σ.idleRead v = { σ with errcode := firstError σ.errcode 3, reply := some 0 } :=
  (idleRead_busy σ busy).trans (raiseRead_eq σ .busy)

/-! ### The procedure at each kind of address -/

/-- What the spec's procedure makes of the transaction `t` (43_host_access.md R170). -/
def State.process (σ : State w) (t : Transaction w) : State w :=
  procedure t.isWrite (BitVec.ofNat 12 t.addr) t.data σ

/-- What an accepted WR of `v` does at a place a host may write (43_host_access.md R170, step 5). -/
def Region.write (r : Region) (v : Word w) (σ : State w) : State w :=
  match r with
  | .coef c s k => σ.setCoef c s k v
  | .inbuf c n => σ.setInbuf c n v
  | .cmd => dispatchCommand v σ
  | _ => σ

variable {a : Addr} {r : Region}

theorem procedure_reserved (reserved : regionOf a = none) (t : Transaction w) (d : Word w) :
    procedure t.isWrite a d σ = σ.refuse t .addr := by
  simp only [procedure, reserved, State.refuse]

theorem procedure_readOnly (region : regionOf a = some r) (readOnly : r.readOnly = true) (d : Word w) :
    procedure true a d σ = σ.raise .ro := by
  simp [procedure, region, readOnly]

theorem procedure_write (region : regionOf a = some r) (writable : r.readOnly = false) (d : Word w) :
    procedure true a d σ = σ.idleWrite (r.write d) := by
  cases busy : σ.busy with
  | true => simp [procedure, region, writable, busy, idleWrite_busy]
  | false =>
    simp only [procedure, region, writable, busy, idleWrite_idle]
    cases r <;> rfl

theorem procedure_controlRead (region : regionOf a = some r) (control : r.control = true) (d : Word w) :
    procedure false a d σ = σ.answer (σ.readRegion r) := by
  simp [procedure, region, control]

theorem procedure_storageRead (region : regionOf a = some r) (storage : r.control = false) (d : Word w) :
    procedure false a d σ = σ.idleRead fun σ => σ.readRegion r := by
  simp [procedure, region, storage, State.idleRead]

/-- The data word of a RD is ignored (30_encoding.md R90). -/
theorem procedure_read_data (a : Addr) (d d' : Word w) (σ : State w) :
    procedure false a d σ = procedure false a d' σ := by
  simp [procedure]

end Sys2Proof.Machine

/-! PROOF. The address map by kind of place: a region stands at one address, no region at a reserved address, and at the
read-only addresses the regions a host may not write (20_memory.md R61 to R65, 43_host_access.md R181, R182). -/

namespace Sys2Proof.Machine

/-- The address of a region (20_memory.md R62 to R65). -/
def Region.addr : Region → Nat
  | .coef c s k => coefAddr c s k
  | .hist c s j => histAddr c s j
  | .inbuf c n => inbufAddr c n
  | .outbuf c n => outbufAddr c n
  | .cmd => cmdAddr
  | .status => statusAddr
  | .config => configAddr
  | .width => widthAddr

theorem regionOf_iff (a : Addr) (r : Region) : regionOf a = some r ↔ a.toNat = r.addr := by
  cases r with
  | coef c s k => exact regionOf_coef a c s k
  | hist c s j => exact regionOf_hist a c s j
  | inbuf c n => exact regionOf_inbuf a c n
  | outbuf c n => exact regionOf_outbuf a c n
  | cmd => exact regionOf_cmd a
  | status => exact regionOf_status a
  | config => exact regionOf_config a
  | width => exact regionOf_width a

theorem coefAddr_lt (c s k : Fin 8) : coefAddr c s k < 0x1000 := by unfold coefAddr; omega

theorem addr_lt (r : Region) : r.addr < 0x1000 := by
  cases r with
  | coef | hist | inbuf | outbuf => simp only [Region.addr, coefAddr, histAddr, inbufAddr, outbufAddr]; omega
  | cmd | status | config | width => decide

/-! ### Reserved addresses -/

theorem reservedAddr_iff (b : Nat) :
    reservedAddr b = true ↔ (b ≤ 0x1FF ∧ 5 ≤ b % 8) ∨ (0x280 ≤ b ∧ b ≤ 0x2FF) ∨ (0x504 ≤ b ∧ b ≤ 0xFFF) := by
  simp only [reservedAddr, Bool.or_eq_true, Bool.and_eq_true, decide_eq_true_eq]
  omega

theorem not_reservedAddr_addr (r : Region) : ¬reservedAddr r.addr = true := by
  rw [reservedAddr_iff]
  cases r with
  | coef | hist | inbuf | outbuf => simp only [Region.addr, coefAddr, histAddr, inbufAddr, outbufAddr]; omega
  | cmd | status | config | width => decide

theorem regionOf_of_reserved {a : Addr} (reserved : reservedAddr a.toNat = true) : regionOf a = none := by
  refine Option.eq_none_iff_forall_ne_some.2 fun r region => not_reservedAddr_addr r ?_
  rwa [← (regionOf_iff a r).1 region]

/-- The coefficient slots past a stage's five are reserved (30_encoding.md R95). -/
theorem reservedAddr_coefAddr (c s : Fin 8) {k : Fin 8} (outside : ¬k.val < 5) :
    reservedAddr (coefAddr c s k) = true := by
  rw [reservedAddr_iff]
  unfold coefAddr
  omega

/-! ### Read-only addresses -/

theorem readOnlyAddr_iff (b : Nat) :
    readOnlyAddr b = true ↔
      (0x200 ≤ b ∧ b ≤ 0x27F) ∨ (0x400 ≤ b ∧ b ≤ 0x4FF) ∨ b = 0x501 ∨ b = 0x502 ∨ b = 0x503 := by
  simp only [readOnlyAddr, Bool.or_eq_true, Bool.and_eq_true, decide_eq_true_eq]
  omega

theorem region_of_readOnlyAddr {a : Addr} (h : readOnlyAddr a.toNat = true) :
    ∃ r, regionOf a = some r ∧ r.readOnly = true := by
  obtain hist | outbuf | status | config | width := (readOnlyAddr_iff _).1 h
  · refine ⟨_, (regionOf_hist a (field3 a 4) (field3 a 1) (field1 a)).2 ?_, rfl⟩
    simp only [histAddr, field3_val, field1_val]
    omega
  · refine ⟨_, (regionOf_outbuf a (field3 a 5) (field5 a)).2 ?_, rfl⟩
    simp only [outbufAddr, field3_val, field5_val]
    omega
  · exact ⟨_, (regionOf_status a).2 status, rfl⟩
  · exact ⟨_, (regionOf_config a).2 config, rfl⟩
  · exact ⟨_, (regionOf_width a).2 width, rfl⟩

theorem readOnlyAddr_addr {r : Region} (readOnly : r.readOnly = true) : readOnlyAddr r.addr = true := by
  cases r with
  | coef | inbuf | cmd => cases readOnly
  | hist | outbuf =>
    rw [readOnlyAddr_iff]
    simp only [Region.addr, histAddr, outbufAddr]
    omega
  | status | config | width => rfl

end Sys2Proof.Machine

/-! PROOF. The command words (44_commands.md R190): the well-formed ones are the words of the six commands, and on each
the spec's dispatch does what the command means. -/

namespace Sys2Proof.Machine

variable {w : Nat} {d : Word w}

/-- A word below `2 ^ 10` is its opcode and its two index fields (30_encoding.md R93). -/
theorem slices_of_word (hw : 16 ≤ w) {op s c : Nat} (bounds : op < 16 ∧ s < 8 ∧ c < 8)
    (word : d.toNat = op + s * 16 + c * 128) :
    slice d 3 0 = op ∧ slice d 6 4 = s ∧ slice d 9 7 = c ∧ slice d (w - 1) 10 = 0 := by
  rw [slice_high hw]
  simp only [slice, word]
  omega

theorem command_of_commandOk (hw : 16 ≤ w) (ok : commandOk d = true) : ∃ i : Instr w, encode i = wr cmdAddr d := by
  have written {n : Nat} (h : d.toNat = n) : command n = wr cmdAddr d := by
    rw [command, ← h, BitVec.ofNat_toNat, BitVec.setWidth_eq]
  simp only [commandOk, slice_high hw, Bool.and_eq_true, Bool.or_eq_true, beq_iff_eq] at ok
  simp only [slice] at ok
  obtain ⟨high, (⟨⟨((op | op) | op) | op, s⟩, c⟩ | op) | ⟨op, s⟩⟩ := ok
  · exact ⟨.nop, written (by omega)⟩
  · exact ⟨.start, written (by omega)⟩
  · exact ⟨.inita, written (by omega)⟩
  · exact ⟨.clrerr, written (by omega)⟩
  · exact ⟨.inits (field3 d 7) (field3 d 4), written (by simp only [field3_val]; omega)⟩
  · exact ⟨.initc (field3 d 7), written (by simp only [field3_val]; omega)⟩

end Sys2Proof.Machine

/-! PROOF. The decoder and the meanings do what the procedure of R170 says: an instruction is the procedure on its own
transaction, and a transaction that selects no row is one the procedure ends at step 1, at step 2 or in `Dispatch`. -/

namespace Sys2Proof.Machine

open Host (Outcome)

variable {w : Nat}

theorem addr_toNat (t : Transaction w) : (BitVec.ofNat 12 t.addr).toNat = t.addr := by
  rw [BitVec.toNat_ofNat]
  exact Nat.mod_eq_of_lt (Nat.mod_lt _ (by decide))

/-! ### The procedure on the transactions the encoder writes, and at the addresses it refuses -/

theorem process_wr {r : Region} (writable : r.readOnly = false) (v : Word w) (σ : State w) :
    σ.process (wr r.addr v) = σ.idleWrite (r.write v) := by
  rw [State.process, wr_isWrite (addr_lt r) v]
  exact procedure_write ((regionOf_iff _ r).2 ((addr_toNat _).trans (wr_addr (addr_lt r) v))) writable v

theorem process_rd_storage {r : Region} (storage : r.control = false) (σ : State w) :
    σ.process (rd r.addr) = σ.idleRead fun σ => σ.readRegion r := by
  rw [State.process, rd_isWrite (addr_lt r)]
  exact procedure_storageRead ((regionOf_iff _ r).2 ((addr_toNat _).trans (rd_addr (addr_lt r)))) storage _

theorem process_rd_control {r : Region} (control : r.control = true) (σ : State w) :
    σ.process (rd r.addr) = σ.answer (σ.readRegion r) := by
  rw [State.process, rd_isWrite (addr_lt r)]
  exact procedure_controlRead ((regionOf_iff _ r).2 ((addr_toNat _).trans (rd_addr (addr_lt r)))) control _

theorem process_reserved {t : Transaction w} (reserved : reservedAddr t.addr = true) (σ : State w) :
    σ.process t = σ.refuse t .addr :=
  procedure_reserved (regionOf_of_reserved (by rwa [addr_toNat])) t t.data

theorem process_readOnly {t : Transaction w} (write : t.isWrite = true) (readOnly : readOnlyAddr t.addr = true)
    (σ : State w) : σ.process t = σ.refuse t .ro := by
  obtain ⟨r, region, hr⟩ := region_of_readOnlyAddr (a := BitVec.ofNat 12 t.addr) (by rwa [addr_toNat])
  rw [State.process, State.refuse, write]
  exact procedure_readOnly region hr t.data

/-! ### Every instruction -/

/-- WRCOEF of a position a stage has passes to the busy check (43_host_access.md R171). -/
theorem perform_wrcoef {c s k : Fin 8} (inside : k.val < 5) (v : Word w) (σ : State w) :
    perform (.wrcoef c s k v) σ = .next (σ.idleWrite fun σ => σ.setCoef c s ⟨k.val, inside⟩ v) :=
  dif_pos inside

theorem perform_wrcoef_reserved {c s k : Fin 8} (outside : ¬k.val < 5) (v : Word w) (σ : State w) :
    perform (.wrcoef c s k v) σ = .next (σ.raise .addr) := dif_neg outside

theorem perform_rdcoef {c s k : Fin 8} (inside : k.val < 5) (σ : State w) :
    perform (.rdcoef c s k) σ = .next (σ.idleRead fun σ => σ.coefAt c s ⟨k.val, inside⟩) :=
  dif_pos inside

theorem perform_rdcoef_reserved {c s k : Fin 8} (outside : ¬k.val < 5) (σ : State w) :
    perform (.rdcoef c s k) σ = .next (σ.raiseRead .addr) := dif_neg outside

/-- A command whose effect is what `Dispatch` does with its fields is the procedure on its word (44_commands.md
R190). -/
theorem command_follows (hw : 16 ≤ w) {op s c n : Nat} (bounds : op < 16 ∧ s < 8 ∧ c < 8)
    (fields : n = op + s * 16 + c * 128) {f : State w → State w}
    (dispatch : ∀ (d : Word w) (τ : State w), slice d 3 0 = op → slice d 6 4 = s → slice d 9 7 = c →
      slice d (w - 1) 10 = 0 → dispatchCommand d τ = f τ) (σ : State w) :
    (.next (σ.idleWrite f) : Outcome (State w) Fault Refusal) = .next (σ.process (command n)) := by
  have word : (BitVec.ofNat w n).toNat = op + s * 16 + c * 128 := fields ▸ ofNat_toNat_of_lt hw (by omega)
  obtain ⟨hop, hs, hc, high⟩ := slices_of_word hw bounds word
  have same : dispatchCommand (BitVec.ofNat w n) = f := funext fun τ => dispatch _ τ hop hs hc high
  rw [← same]
  exact congrArg _ (process_wr (r := .cmd) rfl _ σ).symm

/-- An instruction means what the procedure of R170 does with its transaction. -/
theorem perform_follows (hw : 16 ≤ w) (i : Instr w) (σ : State w) : perform i σ = .next (σ.process (encode i)) := by
  cases i with
  | wrcoef c s k v =>
    by_cases inside : k.val < 5
    · have written := process_wr (r := .coef c s ⟨k.val, inside⟩) rfl v σ
      exact (perform_wrcoef inside v σ).trans (congrArg _ written.symm)
    · have reserved : reservedAddr (encode (.wrcoef c s k v)).addr = true := by
        rw [encode, wr_addr (coefAddr_lt c s k)]
        exact reservedAddr_coefAddr c s inside
      rw [process_reserved reserved, State.refuse, encode, wr_isWrite (coefAddr_lt c s k)]
      exact perform_wrcoef_reserved inside v σ
  | rdcoef c s k =>
    by_cases inside : k.val < 5
    · have read := process_rd_storage (r := .coef c s ⟨k.val, inside⟩) rfl σ
      exact (perform_rdcoef inside σ).trans (congrArg _ read.symm)
    · have reserved : reservedAddr (encode (.rdcoef c s k) : Transaction w).addr = true := by
        rw [encode, rd_addr (coefAddr_lt c s k)]
        exact reservedAddr_coefAddr c s inside
      rw [process_reserved reserved, State.refuse, encode, rd_isWrite (coefAddr_lt c s k)]
      exact perform_rdcoef_reserved inside σ
  | rdhist c s j => exact congrArg _ (process_rd_storage (r := .hist c s j) rfl σ).symm
  | wrin c n v => exact congrArg _ (process_wr (r := .inbuf c n) rfl v σ).symm
  | rdin c n => exact congrArg _ (process_rd_storage (r := .inbuf c n) rfl σ).symm
  | rdout c n => exact congrArg _ (process_rd_storage (r := .outbuf c n) rfl σ).symm
  | rdcmd => exact congrArg _ (process_rd_control (r := .cmd) rfl σ).symm
  | rdstat => exact congrArg _ (process_rd_control (r := .status) rfl σ).symm
  | rdcfg => exact congrArg _ (process_rd_control (r := .config) rfl σ).symm
  | rdwidth => exact congrArg _ (process_rd_control (r := .width) rfl σ).symm
  | nop =>
    refine command_follows (op := 0) (s := 0) (c := 0) hw (by decide) rfl ?_ σ
    intro d τ op s c high
    simp [dispatchCommand, commandOk, op, s, c, high]
  | start =>
    refine command_follows (op := 1) (s := 0) (c := 0) hw (by decide) rfl ?_ σ
    intro d τ op s c high
    simp [dispatchCommand, commandOk, op, s, c, high]
  | inits c s =>
    refine command_follows (op := 2) hw ⟨by decide, s.isLt, c.isLt⟩ rfl ?_ σ
    intro d τ op s c high
    simp [dispatchCommand, commandOk, field3, op, s, c, high]
  | initc c =>
    refine command_follows (op := 3) (s := 0) hw ⟨by decide, by decide, c.isLt⟩ rfl ?_ σ
    intro d τ op s c high
    simp [dispatchCommand, commandOk, field3, op, s, c, high]
  | inita =>
    refine command_follows (op := 4) (s := 0) (c := 0) hw (by decide) rfl ?_ σ
    intro d τ op s c high
    simp [dispatchCommand, commandOk, op, s, c, high]
  | clrerr =>
    refine command_follows (op := 5) (s := 0) (c := 0) hw (by decide) rfl ?_ σ
    intro d τ op s c high
    simp [dispatchCommand, commandOk, op, s, c, high]

/-! ### Every transaction -/

theorem process_congr {t u : Transaction w} (header : u.header = t.header) (same : t.isWrite = true → u = t)
    (σ : State w) : σ.process u = σ.process t := by
  cases write : t.isWrite with
  | true => rw [same write]
  | false =>
    have read : u.isWrite = false := by rw [← write, Transaction.isWrite, header, Transaction.isWrite]
    have addr : u.addr = t.addr := by rw [Transaction.addr, header, Transaction.addr]
    rw [State.process, State.process, read, write, addr]
    exact procedure_read_data _ _ _ σ

/-- A header is its direction and its address (30_encoding.md R91). -/
theorem header_toNat {t : Transaction w} (h : slice t.header 14 12 = 0) :
    t.header.toNat = (if t.isWrite then 0x8000 else 0) + t.addr := by
  have bound := t.header.isLt
  simp only [slice] at h
  simp only [Transaction.isWrite, Transaction.addr, slice, beq_iff_eq]
  split <;> omega

/-- A transaction that the procedure takes past its address checks selects a row, a WR of `CMD` apart. -/
theorem decode_of_place {t : Transaction w} (h : slice t.header 14 12 = 0) {r : Region} (place : t.addr = r.addr)
    (legal : t.isWrite = true → r.readOnly = false ∧ r ≠ .cmd) : ∃ i, decode t = .ok i := by
  have header := header_toNat h
  rw [place] at header
  cases write : t.isWrite with
  | true =>
    rw [write, if_pos rfl] at header
    obtain ⟨writable, other⟩ := legal write
    cases r with
    | coef c s k => exact ⟨_, decode_wrcoef (k := k.castLE (by decide)) header⟩
    | inbuf c n => exact ⟨_, decode_wrin header⟩
    | cmd => exact absurd rfl other
    | hist | outbuf | status | config | width => cases writable
  | false =>
    rw [write, if_neg (by decide), Nat.zero_add] at header
    have full {p : Header} (same : t.header.toNat = p.toNat) : t.header &&& 0xFFFF = p :=
      (mask_FFFF _ _).2 (BitVec.eq_of_toNat_eq same)
    cases r with
    | coef c s k => exact ⟨_, decode_rdcoef (k := k.castLE (by decide)) header⟩
    | hist c s j => exact ⟨_, decode_rdhist header⟩
    | inbuf c n => exact ⟨_, decode_rdin header⟩
    | outbuf c n => exact ⟨_, decode_rdout header⟩
    | cmd => exact ⟨_, decode_of_access 6 (by decide) (full header) rfl⟩
    | status => exact ⟨_, decode_of_access 7 (by decide) (full header) rfl⟩
    | config => exact ⟨_, decode_of_access 8 (by decide) (full header) rfl⟩
    | width => exact ⟨_, decode_of_access 9 (by decide) (full header) rfl⟩

theorem decode_error {t : Transaction w} {e : Reject} (h : decode t = .error e) : e = rejectOf t := by
  unfold decode at h
  split at h <;> cases h
  rfl

/-- A rejected transaction on `CMD` is a WR of a malformed word. -/
theorem malformed_of_reject (hw : 16 ≤ w) {t : Transaction w} (h : slice t.header 14 12 = 0)
    (selectsNone : ∀ i, decode t ≠ .ok i) (cmd : t.addr = cmdAddr) :
    t.isWrite = true ∧ commandOk t.data = false := by
  have write : t.isWrite = true := by
    by_contra read
    obtain ⟨i, decoded⟩ := decode_of_place (r := .cmd) h cmd fun write => absurd write read
    exact selectsNone i decoded
  refine ⟨write, ?_⟩
  by_contra ok
  obtain ⟨i, word⟩ := command_of_commandOk hw (Bool.eq_true_of_not_eq_false ok)
  have header := header_toNat h
  rw [write, if_pos rfl, cmd] at header
  have same : wr cmdAddr t.data = t := by rw [wr, ← header, BitVec.ofNat_toNat, BitVec.setWidth_eq]
  exact selectsNone i ((word.trans same) ▸ decode_encode hw i)

/-- A rejected transaction elsewhere is a WR of a read-only location, or its address names nothing. -/
theorem reserved_of_reject {t : Transaction w} (h : slice t.header 14 12 = 0)
    (selectsNone : ∀ i, decode t ≠ .ok i) (other : t.addr ≠ cmdAddr)
    (writable : ¬(t.isWrite && readOnlyAddr t.addr) = true) : regionOf (BitVec.ofNat 12 t.addr) = none := by
  refine Option.eq_none_iff_forall_ne_some.2 fun r region => ?_
  have place : t.addr = r.addr := (addr_toNat t).symm.trans ((regionOf_iff _ r).1 region)
  have legal (write : t.isWrite = true) : r.readOnly = false ∧ r ≠ .cmd := by
    constructor
    · by_contra readOnly
      have inside := readOnlyAddr_addr (Bool.eq_true_of_not_eq_false readOnly)
      exact writable (Bool.and_eq_true_iff.2 ⟨write, place ▸ inside⟩)
    · rintro rfl
      exact other place
  obtain ⟨i, decoded⟩ := decode_of_place h place legal
  exact selectsNone i decoded

theorem process_malformed {t : Transaction w} (cmd : t.addr = cmdAddr) (write : t.isWrite = true)
    (malformed : commandOk t.data = false) (σ : State w) : σ.process t = σ.refuse t σ.commandError := by
  have region := (regionOf_cmd _).2 ((addr_toNat t).trans cmd)
  rw [State.process, State.refuse, write, procedure_write region rfl, if_pos rfl]
  cases busy : σ.busy with
  | true => simp [State.commandError, busy, idleWrite_busy]
  | false => simp [State.commandError, busy, idleWrite_idle, Region.write, dispatchCommand, malformed]

/-- A transaction that selects no row ends in the procedure as in the machine: for a malformed word written to `CMD`
at the busy check or in `Dispatch`, else at step 2 or at step 1 (30_encoding.md R96). -/
theorem reject_follows (hw : 16 ≤ w) {t : Transaction w} (h : slice t.header 14 12 = 0) {e : Reject}
    (rejected : decode t = .error e) (σ : State w) : transact t σ = .next (σ.process t) := by
  have selectsNone (i : Instr w) : decode t ≠ .ok i := by simp [rejected]
  have reason := decode_error rejected
  rw [rejectOf, if_neg (not_not.2 h)] at reason
  by_cases cmd : t.addr = 0x500
  · obtain ⟨write, malformed⟩ := malformed_of_reject hw h selectsNone cmd
    rw [if_pos cmd] at reason
    simp only [transact, rejected, reason, process_malformed cmd write malformed]
  · rw [if_neg cmd] at reason
    by_cases readOnly : (t.isWrite && readOnlyAddr t.addr) = true
    · obtain ⟨write, place⟩ := Bool.and_eq_true_iff.1 readOnly
      rw [if_pos readOnly] at reason
      simp only [transact, rejected, reason, process_readOnly write place]
    · rw [if_neg readOnly] at reason
      have reserved := reserved_of_reject h selectsNone cmd readOnly
      simp only [transact, rejected, reason, State.process, procedure_reserved reserved]

theorem transact_follows (hw : 16 ≤ w) {t : Transaction w} (h : slice t.header 14 12 = 0) (σ : State w) :
    transact t σ = .next (σ.process t) := by
  cases decoded : decode t with
  | ok i =>
    obtain ⟨header, same⟩ := decodedTransactionEncodesBack w hw t i decoded
    rw [transact_of_decode decoded, perform_follows hw, process_congr header same]
  | error e => exact reject_follows hw h decoded σ

/-- Settles O6: a decoded transaction by its instruction, a rejected one by the class it is rejected in. -/
theorem transactionFollowsTheProcedure : Obligations.TransactionFollowsTheProcedure :=
  fun _ hw _ σ h => transact_follows hw h σ

/-- Settles O7: a reserved address ends the procedure at step 1. -/
theorem reservedAddressRaisesAddr : Obligations.ReservedAddressRaisesAddr := by
  intro w hw t σ h reserved
  rw [transact_follows hw h, process_reserved reserved, refuse_eq]
  rfl

/-- Settles O8: a WR of a read-only location ends the procedure at step 2. -/
theorem readOnlyWriteRaisesRo : Obligations.ReadOnlyWriteRaisesRo := by
  intro w hw t σ h write place
  rw [transact_follows hw h, process_readOnly write ((readOnlyAddr_iff _).2 place), refuse_eq, if_pos write]
  rfl

end Sys2Proof.Machine

/-! PROOF. The accesses of the storage (43_host_access.md R171 to R176, R183): an accepted write touches the one word its
address names, and a busy engine refuses every access and every command. -/

namespace Sys2Proof.Machine

variable {w : Nat}

/-! ### The frame of an accepted write -/

/-- Two states that agree in every region but one agree at every address but its own. -/
theorem sameStorageBut_of_region {σ τ : State w} {r : Region}
    (keeps : ∀ q, q ≠ r → τ.readRegion q = σ.readRegion q) : sameStorageBut r.addr σ τ :=
  fun a notStatus other => peek_congr a notStatus fun q _ region =>
    keeps q fun same => other ((regionOf_iff a r).1 (same ▸ region))

theorem setCoef_readRegion (σ : State w) {c s : Fin 8} {k : Fin 5} (v : Word w) {q : Region}
    (other : q ≠ .coef c s k) : (σ.setCoef c s k v).readRegion q = σ.readRegion q := by
  cases q with
  | coef d t l =>
    refine (setCoef_coefAt σ c s d t k l v).trans (if_neg ?_)
    rintro ⟨rfl, rfl, rfl⟩
    exact other rfl
  | hist d t j => exact setCoef_histAt σ c s k v d t j
  | inbuf d n => exact setCoef_inbufAt σ c s k v d n
  | outbuf d n => exact setCoef_outbufAt σ c s k v d n
  | cmd | status | config | width => rfl

theorem setInbuf_readRegion (σ : State w) {c : Fin 8} {n : Fin 32} (v : Word w) {q : Region}
    (other : q ≠ .inbuf c n) : (σ.setInbuf c n v).readRegion q = σ.readRegion q := by
  cases q with
  | coef d t l => exact setInbuf_coefAt σ c n v d t l
  | hist d t j => exact setInbuf_histAt σ c n v d t j
  | inbuf d m =>
    refine (setInbuf_inbufAt σ c d n m v).trans (if_neg ?_)
    rintro ⟨rfl, rfl⟩
    exact other rfl
  | outbuf d m => exact setInbuf_outbufAt σ c n v d m
  | cmd | status | config | width => rfl

/-- What a write of one word leaves: every stored word but the one at `b`, and all that is no stored word. -/
def WritesOneWord (b : Nat) (σ τ : State w) : Prop := sameStorageBut b σ τ ∧ sameRest σ τ

theorem setCoef_writesOneWord (σ : State w) (c s : Fin 8) (k : Fin 5) (v : Word w) :
    WritesOneWord (coefAddr c s k) σ (σ.setCoef c s k v) :=
  ⟨sameStorageBut_of_region (r := .coef c s k) fun _ => setCoef_readRegion σ v,
    fun d => ⟨setCoef_xAt σ c s k v d, setCoef_posAt σ c s k v d⟩, ⟨rfl, rfl⟩, rfl, rfl, rfl, rfl, rfl⟩

theorem setInbuf_writesOneWord (σ : State w) (c : Fin 8) (n : Fin 32) (v : Word w) :
    WritesOneWord (inbufAddr c n) σ (σ.setInbuf c n v) :=
  ⟨sameStorageBut_of_region (r := .inbuf c n) fun _ => setInbuf_readRegion σ v,
    fun d => ⟨setInbuf_xAt σ c n v d, setInbuf_posAt σ c n v d⟩, ⟨rfl, rfl⟩, rfl, rfl, rfl, rfl, rfl⟩

/-! ### The two writes, accepted or refused -/

/-- The frame of a WR of the word at `b`, which is dropped where `refused` holds. -/
def WriteFrame (b : Nat) (refused : Prop) (σ τ : State w) : Prop :=
  sameStorageBut b σ τ ∧ (refused → sameStorage σ τ)
    ∧ sameLanes σ τ ∧ sameRun σ τ ∧ τ.reply = σ.reply ∧ sameWorld σ τ

theorem writeFrame_raise (b : Nat) (refused : Prop) (σ : State w) (e : Err) :
    WriteFrame b refused σ (σ.raise e) := by
  have same : sameButError σ (σ.raise e) := busyEffect_sameButError (.raise e) σ
  obtain ⟨storage, lanes, run, world⟩ := frame_of_sameButError same
  exact ⟨fun a notStatus _ => storage a notStatus, fun _ => storage, lanes, run, raise_reply σ e, world⟩

theorem writeFrame_idleWrite {b : Nat} {refused : Prop} {σ : State w} {f : State w → State w}
    (busy : refused → σ.busy = true) (writes : WritesOneWord b σ (f σ)) :
    WriteFrame b refused σ (σ.idleWrite f) := by
  cases hb : σ.busy with
  | true => exact idleWrite_busy σ hb ▸ writeFrame_raise b refused σ .busy
  | false =>
    rw [idleWrite_idle σ hb]
    obtain ⟨storage, lanes, run, -, reply, world⟩ := writes
    exact ⟨storage, fun h => by simp [busy h] at hb, lanes, run, reply, world⟩

/-- Settles O24: a refused write leaves an error, an accepted one its word. -/
theorem storageWritesTouchOneWord : Obligations.StorageWritesTouchOneWord := by
  constructor
  · intro c s k v σ τ h
    rw [exec_eq_perform] at h
    by_cases inside : k.val < 5
    · rw [perform_wrcoef inside] at h
      cases h
      exact writeFrame_idleWrite (fun refused => refused.resolve_left (Nat.not_le.2 inside))
        (setCoef_writesOneWord σ c s ⟨k.val, inside⟩ v)
    · rw [perform_wrcoef_reserved inside] at h
      cases h
      exact writeFrame_raise _ _ σ .addr
  · intro c n v σ τ h
    cases h
    exact writeFrame_idleWrite id (setInbuf_writesOneWord σ c n v)

/-- Settles O32: what passes the address checks and is no control read stops at the busy check, and a WR of `CMD`
passes them whatever its word. -/
theorem busyRefusesEveryAccess : Obligations.BusyRefusesEveryAccess := by
  constructor
  · intro i σ busy wf storage
    rw [exec_eq_perform]
    cases i with
    | wrcoef c s k v =>
      rw [perform_wrcoef (Nat.lt_succ_of_le (of_decide_eq_true wf)), idleWrite_refused busy]
      rfl
    | rdcoef c s k =>
      rw [perform_rdcoef (Nat.lt_succ_of_le (of_decide_eq_true wf)), idleRead_refused busy]
      rfl
    | rdhist | rdin | rdout => exact congrArg _ (idleRead_refused busy)
    | wrin | nop | start | inits | initc | inita | clrerr => exact congrArg _ (idleWrite_refused busy)
    | rdcmd | rdstat | rdcfg | rdwidth => simp [isControlRead] at storage
  · intro d σ busy
    have written : σ.process (wr cmdAddr d) = σ.idleWrite (Region.write .cmd d) :=
      process_wr (r := .cmd) rfl d σ
    rw [← idleWrite_refused (f := Region.write .cmd d) busy, ← written]
    exact transact_follows (t := wr cmdAddr d) (by decide) (Laws.Header.of_wr (by decide) d) σ

/-! ### The six accesses, clause by clause -/

/-- Settles O15: WRCOEF ends at the address check, at the busy check, or with its one word written. -/
theorem wrcoefWritesOneCoefficient : Obligations.WrcoefWritesOneCoefficient := by
  intro c s k v σ
  have place : coefAddr c s k = c.val * 64 + s.val * 8 + k.val := by unfold coefAddr; omega
  rw [← place, exec_eq_perform]
  refine ⟨wr_header_toNat (coefAddr_lt c s k) v, rfl, fun inside idle => ?_, fun outside => ?_, fun inside busy => ?_⟩
  · rw [perform_wrcoef inside, idleWrite_idle σ idle]
    obtain ⟨storage, rest⟩ := setCoef_writesOneWord σ c s ⟨k.val, inside⟩ v
    exact ⟨_, rfl, (setCoef_coefAt ..).trans (if_pos ⟨rfl, rfl, rfl⟩), storage, rest⟩
  · rw [perform_wrcoef_reserved (Nat.not_lt.2 outside), raise_eq]
    rfl
  · rw [perform_wrcoef inside, idleWrite_refused busy]

/-- Settles O16: RDCOEF ends at the address check, at the busy check, or with the coefficient's answer. -/
theorem rdcoefReturnsTheCoefficient : Obligations.RdcoefReturnsTheCoefficient := by
  intro c s k σ
  have place : coefAddr c s k = c.val * 64 + s.val * 8 + k.val := by unfold coefAddr; omega
  rw [← place, exec_eq_perform]
  refine ⟨rd_header_toNat (coefAddr_lt c s k), fun inside idle => ?_, fun outside => ?_, fun inside busy => ?_⟩
  · rw [perform_rdcoef inside, idleRead_idle σ idle]
    rfl
  · rw [perform_rdcoef_reserved (Nat.not_lt.2 outside), raiseRead_eq]
    rfl
  · rw [perform_rdcoef inside, idleRead_refused busy]

/-- Settles O17: the history register's answer, or the refusal at the busy check. -/
theorem rdhistReturnsTheHistory : Obligations.RdhistReturnsTheHistory := fun c s j σ =>
  ⟨rd_header_toNat (addr_lt (.hist c s j)),
    fun idle => congrArg _ (idleRead_idle σ idle), fun busy => congrArg _ (idleRead_refused busy)⟩

/-- Settles O18: WRIN ends at the busy check or with its one word written. -/
theorem wrinWritesOneSample : Obligations.WrinWritesOneSample := by
  intro c n v σ
  refine ⟨?_, rfl, fun idle => ?_, fun busy => congrArg _ (idleWrite_refused busy)⟩
  · have header : (wr (inbufAddr c n) v).header.toNat = 0x8000 + inbufAddr c n :=
      wr_header_toNat (addr_lt (.inbuf c n)) v
    rw [encode, header, inbufAddr]
    omega
  · have written : exec (.wrin c n v) σ = .next (σ.setInbuf c n v) := congrArg _ (idleWrite_idle σ idle)
    obtain ⟨storage, rest⟩ := setInbuf_writesOneWord σ c n v
    exact ⟨_, written, (setInbuf_inbufAt ..).trans (if_pos ⟨rfl, rfl⟩), storage, rest⟩

/-- Settles O19: the input sample's answer, or the refusal at the busy check. -/
theorem rdinReturnsTheInput : Obligations.RdinReturnsTheInput := fun c n σ =>
  ⟨rd_header_toNat (addr_lt (.inbuf c n)),
    fun idle => congrArg _ (idleRead_idle σ idle), fun busy => congrArg _ (idleRead_refused busy)⟩

/-- Settles O20: the output sample's answer, or the refusal at the busy check. -/
theorem rdoutReturnsTheOutput : Obligations.RdoutReturnsTheOutput := fun c n σ =>
  ⟨(rd_header_toNat (addr_lt (.outbuf c n))).trans (Nat.add_assoc ..),
    fun idle => congrArg _ (idleRead_idle σ idle), fun busy => congrArg _ (idleRead_refused busy)⟩

end Sys2Proof.Machine

/-! PROOF. A frame run from the host's START to the completion step (44_commands.md R192, R193): START puts every lane
at `(0, 0)`, the schedule gives each lane its frame, and the completion's turn finds every lane finished. -/

namespace Sys2Proof.Machine

variable {w : Nat}

/-- Settles O48: the completion's turn ends the run or passes, and each condition excludes the other. -/
theorem completionIsEnabledExactlyAtTheEnd : Obligations.CompletionIsEnabledExactlyAtTheEnd := by
  intro w σ
  obtain ⟨busy, finished, ended⟩ | ⟨disabled, passed⟩ := complete_cases σ
  · exact ⟨fun _ => ended, fun disabled => absurd ⟨busy, finished⟩ disabled⟩
  · exact ⟨fun enabled => absurd enabled disabled, fun _ => passed⟩

/-! ### The three parts of the run -/

theorem nextTurn_of_agenda {σ : State w} {u : Turn w} {rest : List (Turn w)} (agenda : σ.agenda = u :: rest) :
    nextTurn σ = takeTurn u { σ with agenda := rest } := by
  simp only [nextTurn, agenda]

theorem run_add_of_next {M : Host.Core} {m : Nat} {s s' : M.State} (h : M.run m s = .next s') (k : Nat) :
    M.run (m + k) s = M.run k s' := by
  induction m generalizing s with
  | zero =>
    cases h
    rw [Nat.zero_add]
  | succ m ih =>
    rw [Nat.succ_add]
    cases step : M.step s with
    | next ρ =>
      rw [run_succ_of_next step] at h ⊢
      exact ih h
    | fault r => simp [Host.Core.run, step] at h
    | refused r => simp [Host.Core.run, step] at h

theorem nextTurn_start (hw : 16 ≤ w) {σ : State w} {rest : List (Turn w)} (idle : σ.busy = false)
    (agenda : σ.agenda = .host (encode .start) :: rest) :
    nextTurn σ = .next (State.beginRun { σ with agenda := rest }) := by
  rw [nextTurn_of_agenda agenda, takeTurn, transact_of_decode (decode_encode hw _)]
  exact congrArg Host.Outcome.next (idleWrite_idle { σ with agenda := rest } idle)

theorem nextTurn_complete {σ : State w} {rest : List (Turn w)} (agenda : σ.agenda = .complete :: rest)
    (busy : σ.busy = true) (finished : ∀ c, σ.posAt c = Pos.finished) :
    nextTurn σ = .next (State.endRun { σ with agenda := rest }) :=
  (nextTurn_of_agenda agenda).trans
    (congrArg _ ((completionIsEnabledExactlyAtTheEnd w { σ with agenda := rest }).1 ⟨busy, finished⟩))

theorem posAt_of_frameResult {σ τ : State w} (h : τ.chan = σ.frameResult) (c : Fin 8) : τ.posAt c = Pos.finished := by
  have frame := frameResult_chan σ c
  rw [← h] at frame
  exact congrArg Channel.pos frame

theorem frameResult_of_same_chan {σ τ : State w} (chan : τ.chan = σ.chan) : τ.frameResult = σ.frameResult :=
  vec_ext fun c => by rw [frameResult_chan, frameResult_chan, chan]

/-- Settles O47: START's step, the schedule's run from START's positions, and the completion step it enables. -/
theorem startToCompletionRunsTheFrame : Obligations.StartToCompletionRunsTheFrame := by
  intro w hw σ us rest idle agenda mid enough
  have started := nextTurn_start hw idle agenda
  obtain ⟨τ, ran, chan, busy, left⟩ := everyScheduleGivesTheFrame w
    (State.beginRun { σ with agenda := us ++ .complete :: rest }) us (.complete :: rest)
    (beginRun_busy _) (beginRun_posAt _) rfl mid enough
  have completed := nextTurn_complete left busy (posAt_of_frameResult chan)
  have result : τ.chan = σ.frameResult :=
    (chan.trans (frameResult_beginRun _)).trans (frameResult_of_same_chan rfl)
  refine ⟨State.endRun { τ with agenda := rest }, ?_, rfl, rfl, result, rfl⟩
  calc (machineAt w).run (us.length + 2) σ
      = (machineAt w).run (us.length + 1) _ := run_succ_of_next (M := machineAt w) started
    _ = (machineAt w).run 1 τ := run_add_of_next ran 1
    _ = .next _ := run_succ_of_next (M := machineAt w) completed

end Sys2Proof.Machine

/-! PROOF. A malformed command word (44_commands.md R198): the words of 30_encoding.md R96 are none of the six commands
of 44_commands.md R190. -/

namespace Sys2Proof.Machine

variable {w : Nat}

theorem not_commandOk_of_malformedWord {d : Word w} (malformed : malformedWord d = true) : commandOk d = false := by
  by_contra ok
  rw [Bool.not_eq_false] at ok
  simp only [commandOk, Bool.and_eq_true, Bool.or_eq_true, beq_iff_eq] at ok
  simp only [malformedWord, Bool.and_eq_true, Bool.or_eq_true, beq_iff_eq, bne_iff_ne, decide_eq_true_eq] at malformed
  have fields : slice d 9 4 = slice d 6 4 + 8 * slice d 9 7 := by
    simp only [slice]
    omega
  omega

/-- Settles O9: a malformed word passes the address and the busy check and ends in `Dispatch`. -/
theorem malformedCommandRaisesCmd : Obligations.MalformedCommandRaisesCmd := by
  rintro w hw ⟨_, d⟩ σ rfl idle malformed
  change transact (wr cmdAddr d) σ = _
  have cmd : cmdAddr < 0x1000 := by decide
  have write : (wr cmdAddr d).isWrite = true := wr_isWrite cmd d
  have header : slice (wr cmdAddr d).header 14 12 = 0 := by
    simp only [slice, wr_header_toNat cmd]
    decide
  have ended := process_malformed (wr_addr cmd d) write (not_commandOk_of_malformedWord malformed) σ
  rw [transact_follows hw header, ended, refuse_eq, write, State.commandError, idle]
  rfl

end Sys2Proof.Machine

/-! PROOF. The six commands (44_commands.md R191 to R199): INITS, INITC and INITA zero the histories they name and
keep all else, and START keeps every word. A busy engine refuses each of them. -/

namespace Sys2Proof.Machine

variable {w : Nat} {σ τ : State w}

/-! ### What zeroing histories leaves -/

/-- The engine `τ` is `σ` with the histories of the stages that `named` holds of zeroed. -/
structure ZeroesHistories (named : Fin 8 → Fin 8 → Prop) [∀ c s, Decidable (named c s)] (σ τ : State w) : Prop where
  hist : ∀ c s j, τ.histAt c s j = if named c s then 0 else σ.histAt c s j
  coef : ∀ c s k, τ.coefAt c s k = σ.coefAt c s k
  inbuf : ∀ c n, τ.inbufAt c n = σ.inbufAt c n
  outbuf : ∀ c n, τ.outbufAt c n = σ.outbufAt c n
  rest : sameRest σ τ

theorem zeroStage_zeroes (σ : State w) (c s : Fin 8) :
    ZeroesHistories (fun c' s' => c = c' ∧ s = s') σ (σ.zeroStage c s) where
  hist := zeroStage_histAt σ c s
  coef := zeroStage_coefAt σ c s
  inbuf := zeroStage_inbufAt σ c s
  outbuf := zeroStage_outbufAt σ c s
  rest := ⟨fun d => ⟨zeroStage_xAt σ c s d, zeroStage_posAt σ c s d⟩, ⟨rfl, rfl⟩, rfl, rfl, rfl, rfl, rfl⟩

theorem zeroChannel_zeroes (σ : State w) (c : Fin 8) :
    ZeroesHistories (fun c' _ => c = c') σ (σ.zeroChannel c) where
  hist := zeroChannel_histAt σ c
  coef := zeroChannel_coefAt σ c
  inbuf := zeroChannel_inbufAt σ c
  outbuf := zeroChannel_outbufAt σ c
  rest := ⟨fun d => ⟨zeroChannel_xAt σ c d, zeroChannel_posAt σ c d⟩, ⟨rfl, rfl⟩, rfl, rfl, rfl, rfl, rfl⟩

theorem zeroAll_zeroes (σ : State w) : ZeroesHistories (fun _ _ => True) σ σ.zeroAll where
  hist c s j := (zeroAll_histAt σ c s j).trans (if_pos trivial).symm
  coef := zeroAll_coefAt σ
  inbuf := zeroAll_inbufAt σ
  outbuf := zeroAll_outbufAt σ
  rest := ⟨fun d => ⟨zeroAll_xAt σ d, zeroAll_posAt σ d⟩, ⟨rfl, rfl⟩, rfl, rfl, rfl, rfl, rfl⟩

section
variable {named : Fin 8 → Fin 8 → Prop} [∀ c s, Decidable (named c s)]

/-- Every word but the named history registers reads as before, the status word among them. -/
theorem ZeroesHistories.peek (h : ZeroesHistories named σ τ) {a : Addr}
    (unnamed : ∀ c s (j : Fin 2), named c s → a.toNat ≠ histAddr c s j) : τ.peek a = σ.peek a := by
  cases region : regionOf a with
  | none => simp only [State.peek, region]
  | some r =>
    rw [peek_of_region region, peek_of_region region]
    cases r with
    | coef c s k => exact h.coef c s k
    | hist c s j =>
      have place : a.toNat = histAddr c s j := (regionOf_hist a c s j).1 region
      exact (h.hist c s j).trans (if_neg fun name => unnamed c s j name place)
    | inbuf c n => exact h.inbuf c n
    | outbuf c n => exact h.outbuf c n
    | status =>
      obtain ⟨-, ⟨busy, done⟩, code, reply, -⟩ := h.rest
      exact statusWord_of_sameFace ⟨busy, done, code, reply⟩
    | cmd | config | width => rfl

/-- The history registers stand at `0x200` to `0x27F` (20_memory.md R63). -/
theorem ZeroesHistories.peek_outside (h : ZeroesHistories named σ τ) {a : Addr}
    (outside : a.toNat < 0x200 ∨ 0x27F < a.toNat) : τ.peek a = σ.peek a :=
  h.peek fun c s j _ place => by unfold histAddr at place; omega

end

/-! ### INITC and INITA as sequences -/

theorem foldl_set_getElem {α : Type} {n : Nat} (l : List (Fin n)) (v : Vector α n) (a : α) (i : Fin n) :
    (l.foldl (fun v s => v.set s.val a) v)[i.val] = if i ∈ l then a else v[i.val] := by
  induction l generalizing v with
  | nil => rfl
  | cons s l ih =>
    rw [List.foldl_cons, ih, set_get]
    by_cases same : s = i
    · simp [same]
    · simp [same, Ne.symm same]

/-- Stages of one channel zeroed one after the other are one write of the channel. -/
theorem foldl_zeroStage (l : List (Fin 8)) (σ : State w) (c : Fin 8) :
    l.foldl (fun σ s => σ.zeroStage c s) σ
      = σ.modChan c fun ch => { ch with hist := l.foldl (fun v s => v.set s.val (History.zero w)) ch.hist } := by
  induction l generalizing σ with
  | nil => exact (modChan_id σ c).symm
  | cons s l ih =>
    rw [List.foldl_cons, ih]
    exact modChan_modChan σ c _ _

theorem zeroChannel_eq_foldl (σ : State w) (c : Fin 8) :
    σ.zeroChannel c = (List.finRange 8).foldl (fun σ s => σ.zeroStage c s) σ := by
  have all (v : Vector (History w) 8) :
      (List.finRange 8).foldl (fun v s => v.set s.val (History.zero w)) v = Vector.replicate 8 (History.zero w) :=
    vec_ext fun i => by rw [foldl_set_getElem, if_pos (List.mem_finRange i), Vector.getElem_replicate]
  simp only [foldl_zeroStage, all]
  rfl

/-- The channel with its sixteen history registers zeroed. -/
def Channel.zeroHistories (ch : Channel w) : Channel w := { ch with hist := Vector.replicate 8 (History.zero w) }

theorem zeroChannel_eq_modChan (σ : State w) (c : Fin 8) : σ.zeroChannel c = σ.modChan c Channel.zeroHistories := rfl

theorem zeroAll_eq_foldl (σ : State w) :
    σ.zeroAll = (List.finRange 8).foldl (fun σ c => σ.zeroChannel c) σ := by
  simp only [zeroChannel_eq_modChan]
  rw [foldl_modChan]
  refine congrArg (fun v => { σ with chan := v }) (vec_ext fun d => ?_)
  rw [foldl_modChan_chan (List.nodup_finRange 8), if_pos (List.mem_finRange d)]
  exact zeroAll_chan σ d

/-- Instructions that an idle engine takes, each leaving it idle, one after the other. -/
theorem execAll_idle {α : Type} {g : α → Instr} {f : State → α → State}
    (acts : ∀ (σ : State) (x : α), σ.busy = false → exec (g x) σ = .next (f σ x) ∧ (f σ x).busy = false)
    (l : List α) {σ : State} (idle : σ.busy = false) : execAll (l.map g) σ = .next (l.foldl f σ) := by
  induction l generalizing σ with
  | nil => rfl
  | cons x l ih =>
    obtain ⟨next, idle'⟩ := acts σ x idle
    rw [List.map_cons, execAll, next]
    exact ih idle'

/-! ### The commands, clause by clause -/

theorem exec_inits (c s : Fin 8) {σ : State} (idle : σ.busy = false) :
    exec (.inits c s) σ = .next (σ.zeroStage c s) := congrArg _ (idleWrite_idle σ idle)

theorem exec_initc (c : Fin 8) {σ : State} (idle : σ.busy = false) :
    exec (.initc c) σ = .next (σ.zeroChannel c) := congrArg _ (idleWrite_idle σ idle)

theorem beginRun_sameStorage (σ : State w) : sameStorage σ σ.beginRun := by
  refine fun a notStatus => peek_congr a notStatus fun r other _ => ?_
  cases r with
  | coef c s k => exact beginRun_coefAt σ c s k
  | hist c s j => exact beginRun_histAt σ c s j
  | inbuf c n => exact beginRun_inbufAt σ c n
  | outbuf c n => exact beginRun_outbufAt σ c n
  | status => exact absurd rfl other
  | cmd | config | width => rfl

/-- Settles O25: NOP passes the busy check or is refused. -/
theorem nopDoesNothing : Obligations.NopDoesNothing :=
  ⟨rfl, fun σ => ⟨fun idle => congrArg _ (idleWrite_idle σ idle), fun busy => congrArg _ (idleWrite_refused busy)⟩⟩

/-- Settles O26: START begins a run, which writes positions alone, or is refused. -/
theorem startBeginsOneRun : Obligations.StartBeginsOneRun := by
  refine ⟨rfl, fun σ => ⟨fun idle => ?_, fun busy => congrArg _ (idleWrite_refused busy)⟩⟩
  exact ⟨σ.beginRun, congrArg _ (idleWrite_idle σ idle), rfl, rfl, beginRun_posAt σ, beginRun_xAt σ,
    beginRun_sameStorage σ, rfl, rfl, rfl, rfl, rfl⟩

/-- Settles O27: INITS zeroes its stage or is refused. -/
theorem initsZeroesOneStage : Obligations.InitsZeroesOneStage := by
  refine fun c s σ => ⟨rfl, fun idle => ?_, fun busy => congrArg _ (idleWrite_refused busy)⟩
  have zeroes := zeroStage_zeroes σ c s
  exact ⟨_, exec_inits c s idle, zeroes.hist, fun _ => zeroes.peek_outside, zeroes.rest⟩

/-- Settles O28: INITC zeroes its channel, stage by stage, or is refused. -/
theorem initcZeroesOneChannel : Obligations.InitcZeroesOneChannel := by
  refine fun c σ => ⟨rfl, fun idle => ?_, fun busy => congrArg _ (idleWrite_refused busy)⟩
  have zeroes := zeroChannel_zeroes σ c
  refine ⟨_, exec_initc c idle, zeroes.hist, fun _ => zeroes.peek_outside, zeroes.rest, ?_⟩
  rw [zeroChannel_eq_foldl]
  exact execAll_idle (fun τ s idle => ⟨exec_inits c s idle, idle⟩) (List.finRange 8) idle

/-- Settles O29: INITA zeroes all channels, one after the other, or is refused. -/
theorem initaZeroesAll : Obligations.InitaZeroesAll := by
  refine ⟨rfl, fun σ => ⟨fun idle => ?_, fun busy => congrArg _ (idleWrite_refused busy)⟩⟩
  have zeroes := zeroAll_zeroes σ
  refine ⟨σ.zeroAll, congrArg _ (idleWrite_idle σ idle), zeroAll_histAt σ, fun _ => zeroes.peek_outside,
    zeroes.rest, ?_⟩
  rw [zeroAll_eq_foldl]
  exact execAll_idle (fun τ c idle => ⟨exec_initc c idle, idle⟩) (List.finRange 8) idle

/-- Settles O30: CLRERR clears the code or is refused, and a refusal leaves a code recorded. -/
theorem clrerrClearsTheCode : Obligations.ClrerrClearsTheCode := by
  refine ⟨rfl, fun σ => ⟨fun idle => congrArg _ (idleWrite_idle σ idle),
    fun busy => ⟨congrArg _ (idleWrite_refused busy), ?_⟩⟩⟩
  have recorded := raise_errcode_ne_zero σ .busy
  rw [raise_eq] at recorded
  exact recorded

/-! ### The frame of the six commands -/

/-- The frame of the command `i` (44_commands.md R199). -/
def CommandFrame (i : Instr w) (σ τ : State w) : Prop :=
  (∀ a : Addr, a.toNat ≠ statusAddr →
      (∀ (c s : Fin 8) (j : Fin 2), i = .inits c s ∨ i = .initc c ∨ i = .inita → a.toNat ≠ histAddr c s j) →
      τ.peek a = σ.peek a)
    ∧ (i = .nop ∨ i = .start ∨ i = .clrerr ∨ σ.busy = true → sameStorage σ τ)
    ∧ (i ≠ .start → sameRun σ τ ∧ sameLanes σ τ)
    ∧ (σ.busy = false → i ≠ .clrerr → τ.errcode = σ.errcode)
    ∧ (∀ c, τ.xAt c = σ.xAt c) ∧ τ.reply = σ.reply ∧ sameWorld σ τ

theorem commandFrame_of_sameButError {i : Instr w} (same : sameButError σ τ) (reply : τ.reply = σ.reply)
    (code : σ.busy = false → i ≠ .clrerr → τ.errcode = σ.errcode) : CommandFrame i σ τ := by
  obtain ⟨storage, lanes, run, world⟩ := frame_of_sameButError same
  exact ⟨fun a notStatus _ => storage a notStatus, fun _ => storage, fun _ => ⟨run, lanes⟩, code,
    fun c => (lanes c).1, reply, world⟩

theorem commandFrame_beginRun (σ : State w) : CommandFrame .start σ σ.beginRun :=
  ⟨fun a notStatus _ => beginRun_sameStorage σ a notStatus, fun _ => beginRun_sameStorage σ,
    fun other => absurd rfl other, fun _ _ => rfl, beginRun_xAt σ, rfl, rfl, rfl, rfl⟩

/-- An idle engine's histories zeroed by an instruction that names them all. -/
theorem commandFrame_of_zeroes {i : Instr w} {named : Fin 8 → Fin 8 → Prop} [∀ c s, Decidable (named c s)]
    (zeroes : ZeroesHistories named σ τ)
    (names : ∀ c s, named c s → i = .inits c s ∨ i = .initc c ∨ i = .inita)
    (init : ¬(i = .nop ∨ i = .start ∨ i = .clrerr ∨ σ.busy = true)) : CommandFrame i σ τ := by
  obtain ⟨lanes, run, code, reply, world⟩ := zeroes.rest
  exact ⟨fun a _ unnamed => zeroes.peek fun c s j name => unnamed c s j (names c s name),
    fun still => absurd still init, fun _ => ⟨run, lanes⟩, fun _ _ => code, fun c => (lanes c).1, reply, world⟩

theorem commandFrame_idleWrite {i : Instr w} {f : State w → State w}
    (accepted : σ.busy = false → CommandFrame i σ (f σ)) : CommandFrame i σ (σ.idleWrite f) := by
  cases busy : σ.busy with
  | true =>
    rw [idleWrite_busy σ busy]
    exact commandFrame_of_sameButError (busyEffect_sameButError (.raise .busy) σ) (raise_reply σ .busy)
      fun idle => by simp [busy] at idle
  | false => exact idleWrite_idle σ busy ▸ accepted busy

/-- Settles O31: a refused command leaves an error, and an accepted one its target. -/
theorem commandsTouchOnlyTheirTarget : Obligations.CommandsTouchOnlyTheirTarget := by
  rintro i σ τ (rfl | rfl | ⟨c, s, rfl⟩ | ⟨c, rfl⟩ | rfl | rfl) h <;> cases h <;>
    refine commandFrame_idleWrite fun idle => ?_
  · exact commandFrame_of_sameButError rfl rfl fun _ _ => rfl
  · exact commandFrame_beginRun σ
  · refine commandFrame_of_zeroes (zeroStage_zeroes σ c s) ?_ (by simp [idle])
    rintro _ _ ⟨rfl, rfl⟩
    exact .inl rfl
  · refine commandFrame_of_zeroes (zeroChannel_zeroes σ c) ?_ (by simp [idle])
    rintro _ _ rfl
    exact .inr (.inl rfl)
  · exact commandFrame_of_zeroes (zeroAll_zeroes σ) (fun _ _ _ => .inr (.inr rfl)) (by simp [idle])
  · exact commandFrame_of_sameButError rfl rfl fun _ other => absurd rfl other

end Sys2Proof.Machine

/-! PROOF. The recorded error (60_exceptions.md R211 to R216): `raise` keeps the first code, every move of the engine
but an accepted CLRERR and a reset keeps a code once recorded, and no instruction but RDSTAT looks at it. -/

namespace Sys2Proof.Machine

variable {w : Nat}

/-- Settles O11: what a raise leaves is the first error's code, whichever error it is. -/
theorem raiseRecordsTheFirstCode : Obligations.RaiseRecordsTheFirstCode :=
  fun _ σ => ⟨raise_eq σ .addr, raise_eq σ .ro, raise_eq σ .busy, raise_eq σ .cmd⟩

/-! ### What a move leaves of a recorded code -/

theorem hostMove_errcode {σ τ : State w} {t : Transaction w} (m : HostMove t σ τ) (recorded : σ.errcode ≠ 0) :
    τ.errcode = σ.errcode ∨ (τ.errcode = 0 ∧ σ.busy = false ∧ decode t = .ok .clrerr) := by
  cases m with
  | raise e | raiseRead e =>
    have kept : (σ.raise e).errcode = σ.errcode := congrArg State.errcode (raise_of_recorded σ recorded)
    exact .inl kept
  | clrerr idle decodes => exact .inr ⟨rfl, idle, decodes⟩
  | _ => exact .inl rfl

/-- Settles O12: of the moves only a reset and an accepted CLRERR change a recorded code. -/
theorem errorCodeIsSticky : Obligations.ErrorCodeIsSticky := by
  intro w σ τ recorded h
  obtain ⟨rest, ρ, n, m, rfl⟩ := move_of_nextTurn h
  cases m with
  | pass | lane | complete => exact .inl rfl
  | reset rest next => exact .inr (.inl ⟨rfl, rest, next⟩)
  | host t rest _ next effect =>
    obtain kept | ⟨cleared, idle, decodes⟩ := hostMove_errcode effect recorded
    · exact .inl kept
    · exact .inr (.inr ⟨cleared, idle, t, rest, next, decodes⟩)

/-! ### What does not look at the code -/

/-- Nothing of the machine differs but the error code. -/
def sameButCode (σ τ : State w) : Prop := τ = { σ with errcode := τ.errcode }

theorem sameButError_of_sameButCode {σ τ : State w} (h : sameButCode σ τ) :
    sameButError σ τ ∧ τ.reply = σ.reply := by
  have reply : τ.reply = σ.reply := (congrArg State.reply h :)
  refine ⟨?_, reply⟩
  rw [sameButError, reply]
  exact h

/-- The effect `f` is the same whatever code is recorded, the code itself apart. -/
def IgnoresCode (f : State w → State w) : Prop :=
  ∀ (σ : State w) (e : BitVec 4), sameButCode (f σ) (f { σ with errcode := e })

theorem ignoresCode_raise (x : Err) : IgnoresCode fun σ : State w => σ.raise x := by
  intro σ e
  simp only [sameButCode, raise_eq]

theorem ignoresCode_raiseRead (x : Err) : IgnoresCode fun σ : State w => σ.raiseRead x := by
  intro σ e
  simp only [sameButCode, raiseRead_eq]

theorem ignoresCode_answer {v : State w → Word w} (blind : ∀ σ e, v { σ with errcode := e } = v σ) :
    IgnoresCode fun σ => σ.answer (v σ) := by
  intro σ e
  simp only [blind, sameButCode, State.answer]

/-- The busy check looks at `BUSY` alone. -/
theorem ignoresCode_ite_busy {f g : State w → State w} (busy : IgnoresCode f) (idle : IgnoresCode g) :
    IgnoresCode fun σ => if σ.busy then f σ else g σ := by
  intro σ e
  cases h : σ.busy with
  | true => simpa [h] using busy σ e
  | false => simpa [h] using idle σ e

theorem ignoresCode_idleWrite {f : State w → State w} (h : IgnoresCode f) : IgnoresCode fun σ => σ.idleWrite f :=
  ignoresCode_ite_busy (ignoresCode_raise .busy) h

theorem ignoresCode_idleRead {v : State w → Word w} (blind : ∀ σ e, v { σ with errcode := e } = v σ) :
    IgnoresCode fun σ => σ.idleRead v :=
  ignoresCode_ite_busy (ignoresCode_raiseRead .busy) (ignoresCode_answer blind)

/-- RDSTAT apart, an instruction's meaning is an effect that ignores the code. -/
theorem perform_ignoresCode {i : Instr w} (other : i ≠ .rdstat) :
    ∃ f, IgnoresCode f ∧ ∀ σ, perform i σ = .next (f σ) := by
  cases i with
  | wrcoef c s k v =>
    by_cases inside : k.val < 5
    · refine ⟨_, ignoresCode_idleWrite ?_, perform_wrcoef inside v⟩
      exact fun _ _ => rfl
    · exact ⟨_, ignoresCode_raise .addr, perform_wrcoef_reserved inside v⟩
  | rdcoef c s k =>
    by_cases inside : k.val < 5
    · exact ⟨_, ignoresCode_idleRead fun _ _ => rfl, perform_rdcoef inside⟩
    · exact ⟨_, ignoresCode_raiseRead .addr, perform_rdcoef_reserved inside⟩
  | rdhist | rdin | rdout => exact ⟨_, ignoresCode_idleRead fun _ _ => rfl, fun _ => rfl⟩
  | wrin | nop | start | inits | initc | inita | clrerr =>
    refine ⟨_, ignoresCode_idleWrite ?_, fun _ => rfl⟩
    exact fun _ _ => rfl
  | rdcmd | rdcfg | rdwidth => exact ⟨_, ignoresCode_answer fun _ _ => rfl, fun _ => rfl⟩
  | rdstat => exact absurd rfl other

/-- Settles O13: RDSTAT answers the status word, and every other instruction ignores the code. -/
theorem recordedErrorBlocksNothing : Obligations.RecordedErrorBlocksNothing := by
  intro i σ e
  by_cases h : i = .rdstat
  · subst h
    exact ⟨_, _, exec_rdstat σ, exec_rdstat _, rfl, fun other => absurd rfl other⟩
  · obtain ⟨f, ignores, acts⟩ := perform_ignoresCode h
    obtain ⟨same, reply⟩ := sameButError_of_sameButCode (ignores σ e)
    simp only [exec_eq_perform, acts]
    exact ⟨_, _, rfl, rfl, same, fun _ => reply⟩

end Sys2Proof.Machine

/-! PROOF. The order of the errors (60_exceptions.md R214): the procedure's address checks come first, then the busy
check, and `Dispatch` last, each ending the transaction with its own code. -/

namespace Sys2Proof.Machine

variable {w : Nat} {σ : State w} {t : Transaction w} {r : Region}

/-- An address that is not reserved names a region (20_memory.md R61). -/
theorem region_of_not_reserved {a : Addr} (h : ¬reservedAddr a.toNat = true) : ∃ r, regionOf a = some r := by
  have bound := a.isLt
  rw [reservedAddr_iff] at h
  have place : (a.toNat ≤ 0x1FF ∧ a.toNat % 8 < 5) ∨ readOnlyAddr a.toNat = true
      ∨ (0x300 ≤ a.toNat ∧ a.toNat ≤ 0x3FF) ∨ a.toNat = cmdAddr := by
    rw [readOnlyAddr_iff, cmdAddr]
    omega
  obtain ⟨low, slot⟩ | readOnly | inbuf | cmd := place
  · refine ⟨_, (regionOf_coef a (field3 a 6) (field3 a 3) ⟨a.toNat % 8, slot⟩).2 ?_⟩
    simp only [coefAddr, field3_val]
    omega
  · obtain ⟨r, region, -⟩ := region_of_readOnlyAddr readOnly
    exact ⟨r, region⟩
  · refine ⟨_, (regionOf_inbuf a (field3 a 5) (field5 a)).2 ?_⟩
    simp only [inbufAddr, field3_val, field5_val]
    omega
  · exact ⟨_, (regionOf_cmd a).2 cmd⟩

/-- The control registers stand above the storage (20_memory.md R61). -/
theorem control_eq_false_iff (r : Region) : r.control = false ↔ r.addr < 0x500 := by
  cases r with
  | coef | hist | inbuf | outbuf =>
    simp only [Region.control, Region.addr, coefAddr, histAddr, inbufAddr, outbufAddr, true_iff]
    omega
  | cmd | status | config | width => decide

/-- A command word is well formed unless it is one of the malformed ones of 30_encoding.md R96. -/
theorem commandOk_of_not_malformedWord {d : Word w} (h : ¬malformedWord d = true) : commandOk d = true := by
  simp only [malformedWord, Bool.and_eq_true, Bool.or_eq_true, beq_iff_eq, bne_iff_ne, decide_eq_true_eq] at h
  simp only [commandOk, Bool.and_eq_true, Bool.or_eq_true, beq_iff_eq]
  have fields : slice d 9 4 = slice d 6 4 + 8 * slice d 9 7 := by
    simp only [slice]
    omega
  omega

/-- A command that is accepted records no error. -/
theorem dispatchCommand_errcode {d : Word w} (ok : commandOk d = true) (clear : σ.errcode = 0) :
    (dispatchCommand d σ).errcode = 0 := by
  rw [dispatchCommand, if_pos ok]
  split <;> simp [clear]

theorem write_errcode {d : Word w} (ok : r = .cmd → commandOk d = true) (clear : σ.errcode = 0) :
    (r.write d σ).errcode = 0 := by
  cases r with
  | cmd => exact dispatchCommand_errcode (ok rfl) clear
  | _ => exact clear

theorem refuse_errcode (clear : σ.errcode = 0) (t : Transaction w) (e : Err) :
    (σ.refuse t e).errcode = e.code := by
  rw [refuse_eq]
  exact if_pos clear

/-- Past the address checks a transaction that is no control read stops at the busy check. -/
theorem process_busy (region : regionOf (BitVec.ofNat 12 t.addr) = some r)
    (writable : t.isWrite = true → r.readOnly = false) (busy : σ.busy = true)
    (access : t.isWrite = true ∨ r.control = false) : σ.process t = σ.refuse t .busy := by
  rw [State.process, State.refuse]
  cases write : t.isWrite with
  | true => exact (procedure_write region (writable write) _).trans (idleWrite_busy σ busy)
  | false =>
    have storage : r.control = false := access.resolve_left (by simp [write])
    exact (procedure_storageRead region storage _).trans (idleRead_busy σ busy)

/-- A transaction that passes every check records no error. -/
theorem process_errcode_clear (region : regionOf (BitVec.ofNat 12 t.addr) = some r)
    (writable : t.isWrite = true → r.readOnly = false)
    (idle : t.isWrite = true ∨ r.control = false → σ.busy = false)
    (ok : t.isWrite = true → r = .cmd → commandOk t.data = true) (clear : σ.errcode = 0) :
    (σ.process t).errcode = 0 := by
  rw [State.process]
  cases write : t.isWrite with
  | true =>
    rw [procedure_write region (writable write), idleWrite_idle σ (idle (.inl write))]
    exact write_errcode (ok write) clear
  | false =>
    cases control : r.control with
    | true => exact procedure_controlRead region control _ ▸ clear
    | false =>
      rw [procedure_storageRead region control, idleRead_idle σ (idle (.inr control))]
      exact clear

/-- Settles O10: the checks of the procedure in their order. -/
theorem firstApplicableErrorIsRaised : Obligations.FirstApplicableErrorIsRaised := by
  intro w hw t σ h clear
  refine ⟨σ.process t, transact_follows hw h σ, ?_⟩
  by_cases reserved : reservedAddr t.addr = true
  · rw [if_pos reserved, process_reserved reserved]
    exact refuse_errcode clear t .addr
  rw [if_neg reserved]
  by_cases readOnly : t.isWrite = true ∧ readOnlyAddr t.addr = true
  · rw [if_pos readOnly, process_readOnly readOnly.1 readOnly.2]
    exact refuse_errcode clear t .ro
  rw [if_neg readOnly]
  obtain ⟨r, region⟩ := region_of_not_reserved (a := BitVec.ofNat 12 t.addr) (by rwa [addr_toNat])
  have place : t.addr = r.addr := (addr_toNat t).symm.trans ((regionOf_iff _ r).1 region)
  have writable (write : t.isWrite = true) : r.readOnly = false :=
    Bool.eq_false_iff.2 fun hr => readOnly ⟨write, place ▸ readOnlyAddr_addr hr⟩
  have storage : t.addr < 0x500 ↔ r.control = false := place ▸ (control_eq_false_iff r).symm
  simp only [storage]
  by_cases refused : σ.busy = true ∧ (t.isWrite = true ∨ r.control = false)
  · rw [if_pos refused, process_busy region writable refused.1 refused.2]
    exact refuse_errcode clear t .busy
  rw [if_neg refused]
  have idle (access : t.isWrite = true ∨ r.control = false) : σ.busy = false :=
    Bool.eq_false_iff.2 fun busy => refused ⟨busy, access⟩
  by_cases malformed : t.isWrite = true ∧ t.addr = 0x500 ∧ malformedWord t.data = true
  · rw [if_pos malformed]
    obtain ⟨write, cmd, word⟩ := malformed
    rw [process_malformed cmd write (not_commandOk_of_malformedWord word), State.commandError, idle (.inl write)]
    exact refuse_errcode clear t .cmd
  rw [if_neg malformed]
  refine process_errcode_clear region writable idle (fun write cmd => ?_) clear
  exact commandOk_of_not_malformedWord fun word => malformed ⟨write, place.trans (cmd ▸ rfl), word⟩

end Sys2Proof.Machine

/-! PROOF. Nothing stops the engine (60_exceptions.md R213, R217), and it switches between idle and busy by an accepted
START, by completion and by reset alone (R221). -/

namespace Sys2Proof.Machine

variable {w : Nat}

/-- A transaction is answered, or its header names none (30_encoding.md R96). -/
theorem transact_answers (t : Transaction w) (σ : State w) :
    (∃ τ, transact t σ = .next τ)
      ∨ (slice t.header 14 12 ≠ 0 ∧ transact t σ = .refused (.notATransaction t.header)) := by
  obtain ⟨i, -, runs⟩ | ⟨decoded, stops⟩ | ⟨e, refused⟩ := transact_cases σ t
  · exact .inl (runs ▸ perform_answers σ i)
  · exact .inr ⟨fun header => decode_ne_notATransaction header decoded, stops⟩
  · exact .inl ⟨_, refused⟩

/-- Settles O14: of the turns only the host's can stop, and only for its header. -/
theorem onlyInvalidHeadersStop : Obligations.OnlyInvalidHeadersStop := by
  intro σ
  rw [step_eq_nextTurn]
  cases agenda : σ.agenda with
  | nil => exact .inl ⟨σ.runAlone, by simp only [nextTurn, agenda]⟩
  | cons u rest =>
    rw [nextTurn_of_agenda agenda]
    cases u with
    | host t =>
      obtain answered | ⟨header, stops⟩ := transact_answers t { σ with agenda := rest }
      · exact .inl answered
      · exact .inr ⟨t, rest, rfl, header, stops⟩
    | lane | complete | reset => exact .inl ⟨_, rfl⟩

/-! ### Idle and busy -/

theorem hostMove_busy {σ τ : State w} {t : Transaction w} (m : HostMove t σ τ) :
    τ.busy = σ.busy ∨ (σ.busy = false ∧ τ.busy = true ∧ decode t = .ok .start) := by
  cases m with
  | start idle decodes => exact .inr ⟨idle, rfl, decodes⟩
  | raise e => exact .inl (raise_busy σ e)
  | raiseRead e => exact .inl (raiseRead_busy σ e)
  | _ => exact .inl rfl

/-- What a step does to `BUSY`: nothing, an accepted START, a reset, or completion (60_exceptions.md R221). -/
theorem nextTurn_busy {σ τ : State w} (h : nextTurn σ = .next τ) :
    τ.busy = σ.busy
      ∨ (σ.busy = false ∧ τ.busy = true ∧ ∃ t rest, σ.agenda = .host t :: rest ∧ decode t = .ok .start)
      ∨ (τ.busy = false ∧ ∃ rest, σ.agenda = .reset :: rest)
      ∨ (τ.busy = false ∧ τ.done = true ∧ ∀ c, σ.posAt c = Pos.finished) := by
  obtain ⟨rest, ρ, n, m, rfl⟩ := move_of_nextTurn h
  cases m with
  | pass | lane => exact .inl rfl
  | complete _ finished => exact .inr (.inr (.inr ⟨rfl, rfl, finished⟩))
  | reset rest next => exact .inr (.inr (.inl ⟨rfl, rest, next⟩))
  | host t rest _ next effect =>
    obtain kept | ⟨idle, busy, decodes⟩ := hostMove_busy effect
    · exact .inl kept
    · exact .inr (.inl ⟨idle, busy, t, rest, next, decodes⟩)

/-- Settles O58: each way between idle and busy is one of the steps that change `BUSY`. -/
theorem onlyStartCompletionAndResetSwitch : Obligations.OnlyStartCompletionAndResetSwitch := by
  intro w σ τ h
  obtain kept | ⟨was, -, start⟩ | ⟨now, reset⟩ | ⟨now, completed⟩ := nextTurn_busy h
  · exact ⟨fun was now => by simp [kept, was] at now, fun was now => by simp [kept, was] at now⟩
  · exact ⟨fun _ _ => start, fun was' => by simp [was] at was'⟩
  · exact ⟨fun _ now' => by simp [now] at now', fun _ _ => .inl reset⟩
  · exact ⟨fun _ now' => by simp [now] at now', fun _ _ => .inr completed⟩

end Sys2Proof.Machine

/-! PROOF. `BUSY` and `DONE` together (70_reset_and_hazards.md R254): a step keeps both, begins a run, ends one, or is a
reset. After the reset event (R240, R241) the engine is idle, and an idle engine takes no step of a run. -/

namespace Sys2Proof.Machine

variable {w : Nat}

/-! ### Polling is race-free -/

/-- A transaction leaves `BUSY` and `DONE` as they are, or it is an accepted START. -/
theorem hostMove_status {σ τ : State w} {t : Transaction w} (m : HostMove t σ τ) :
    (τ.busy = σ.busy ∧ τ.done = σ.done) ∨ (τ.busy = true ∧ τ.done = false) := by
  cases m with
  | start => exact .inr ⟨rfl, rfl⟩
  | raise e => exact .inl ⟨raise_busy σ e, raise_done σ e⟩
  | raiseRead e => exact .inl ⟨raiseRead_busy σ e, raiseRead_done σ e⟩
  | _ => exact .inl ⟨rfl, rfl⟩

/-- What a step does to `BUSY` and `DONE`: nothing, the beginning of a run, its completion, or a reset. -/
theorem nextTurn_status {σ τ : State w} (h : nextTurn σ = .next τ) :
    (τ.busy = σ.busy ∧ τ.done = σ.done) ∨ (τ.busy = true ∧ τ.done = false) ∨ (τ.busy = false ∧ τ.done = true)
      ∨ ∃ rest, σ.agenda = .reset :: rest := by
  obtain ⟨rest, ρ, n, m, rfl⟩ := move_of_nextTurn h
  cases m with
  | pass | lane => exact .inl ⟨rfl, rfl⟩
  | complete => exact .inr (.inr (.inl ⟨rfl, rfl⟩))
  | reset rest next => exact .inr (.inr (.inr ⟨rest, next⟩))
  | host t rest _ next effect =>
    obtain kept | begun := hostMove_status effect
    · exact .inl kept
    · exact .inr (.inl begun)

theorem exec_start {σ : State} (idle : σ.busy = false) : exec .start σ = .next σ.beginRun :=
  congrArg _ (idleWrite_idle σ idle)

/-- Settles O57: each thing a step but a reset does to the two bits leaves exactly one of them 1. -/
theorem pollingIsRaceFree : Obligations.PollingIsRaceFree := by
  refine ⟨fun σ idle => ⟨σ.beginRun, exec_start idle, rfl, rfl⟩, fun w σ τ oneOf noReset h => ?_⟩
  obtain ⟨busy, done⟩ | ⟨busy, done⟩ | ⟨busy, done⟩ | ⟨rest, reset⟩ := nextTurn_status h
  · rwa [busy, done]
  · simp [busy, done]
  · simp [busy, done]
  · exact absurd reset (noReset rest)

/-! ### The reset event -/

theorem resetEvent_histAt (σ : State w) (c s : Fin 8) (j : Fin 2) : σ.resetEvent.histAt c s j = 0 := by
  have pair : σ.resetEvent.histPair c s = History.zero w := by
    simp [State.histPair, State.resetEvent, Channel.atReset, History.zero]
  rw [State.histAt, pair, history_zero_get]

theorem laneStep_idle {σ : State w} (idle : σ.busy = false) (c : Fin 8) : σ.laneStep c = σ :=
  laneStep_disabled fun enabled => by simp [idle] at enabled

theorem complete_idle {σ : State w} (idle : σ.busy = false) : σ.complete = σ := by
  obtain ⟨busy, -⟩ | ⟨-, passes⟩ := complete_cases σ
  · simp [idle] at busy
  · exact passes

/-- Settles O53: the reset event leaves the engine idle, where the steps of a run are not enabled. -/
theorem resetEventAbandonsTheRun : Obligations.ResetEventAbandonsTheRun := fun _ σ =>
  have idle : σ.resetEvent.busy = false := resetEvent_busy σ
  ⟨σ.resetEvent, rfl, idle, resetEvent_done σ, resetEvent_errcode σ, resetEvent_histAt σ, laneStep_idle idle,
    complete_idle idle, runAlone_idle idle⟩

end Sys2Proof.Machine
